-- ==== Sys2Proof/Word.lean ====
section
/-! DEFINITION. The two word types and the operand forms of an instruction (spec/00_scope.md R5, R9;
spec/30_encoding.md R80). -/

namespace Sys2Proof

/-- A Byte, 8 bits, arithmetic modulo 256 (R5, R9). -/
abbrev Byte := BitVec 8

/-- A Word, 16 bits, which is also the address type, arithmetic modulo 65536 (R5, R9). -/
abbrev Word := BitVec 16

/-- The 13 addressing-mode tags of the resolver (R80). -/
inductive Mode where
  | implied | accumulator | immediate
  | zeroPage | zeroPageX | zeroPageY
  | absolute | absoluteX | absoluteY
  | relative | indirect | indexedIndirect | indirectIndexed
deriving DecidableEq, Repr

/-- An operand in memory: one of the eight modes whose resolution is the address of a Byte, with the
operand byte or Word the instruction stream holds for it (R84-R89, R92, R93). -/
inductive Addr where
  | zeroPage (b : Byte)
  | zeroPageX (b : Byte)
  | zeroPageY (b : Byte)
  | absolute (w : Word)
  | absoluteX (w : Word)
  | absoluteY (w : Word)
  | indexedIndirect (b : Byte)
  | indirectIndexed (b : Byte)
deriving DecidableEq, Repr

/-- The operand of an instruction that reads one Byte: the immediate byte (R83) or a Byte in memory. -/
inductive Src where
  | immediate (b : Byte)
  | mem (m : Addr)
deriving DecidableEq, Repr

/-- The operand of a shift or rotate: the accumulator (R82) or a Byte in memory (R150). -/
inductive Rmw where
  | accumulator
  | mem (m : Addr)
deriving DecidableEq, Repr

/-- The operand of JMP: absolute (R87) or indirect (R91). -/
inductive JumpTarget where
  | absolute (w : Word)
  | indirect (w : Word)
deriving DecidableEq, Repr

/-- The operand of an unofficial NOP (R211): none, an immediate byte or a Byte in memory. -/
inductive NopArg where
  | implied
  | immediate (b : Byte)
  | mem (m : Addr)
deriving DecidableEq, Repr

end Sys2Proof
end

