-- ==== Sys2Proof/Config.lean ====
section
/-! DEFINITION. What an implementation fixes (the parameters of spec/00_scope.md R6) and the free values. -/

namespace Sys2Proof

/-- The parameter UNOFFICIAL (R6, 92_eei_decisions.md D2): whether the 80 unofficial opcodes are mapped. -/
inductive Unofficial where
  | off
  | nestest
deriving DecidableEq, Repr

/-- The parameters of R6 that are plain data, with the spec's defaults. A machine keeps them for its whole
life: State holds them (assumption log 1, 2, 3) and no step and no host call changes them. -/
structure Params where
  /-- UNOFFICIAL, default off (D2). -/
  unofficial : Unofficial := .off
  /-- DECODE_FAIL_PC_ROLLBACK, default false (D6). -/
  decodeFailPcRollback : Bool := false
  /-- RESET_CYCLES, default 7 (D7). -/
  resetCycles : BitVec 64 := 7
deriving DecidableEq, Repr

/-- FREE VALUE. The parameter NROM_LOW_READ (R6, 20_memory.md R51, D10): what an NROM cartridge returns for a
read in 0x4020-0x7FFF. The spec leaves it OPEN, so it has no body and no proof can see a value of it
(assumption log 6, DESIGN CHOICE, safe). -/
opaque Config.nromLowRead : Word → Byte

/-- FREE VALUE. The initial state of the cartridge device CART (R6, 20_memory.md R50, D10) where it is not NROM. Its
state type S is `List Byte`, plain data that can hold any finite state (assumption log 7, DESIGN CHOICE, safe). -/
opaque Config.cartInit : List Byte

/-- FREE VALUE. `cart_read : S → Word → Byte` of that device (R50; assumption log 7). A read changes no state, as
the interface's type says. -/
opaque Config.cartRead : List Byte → Word → Byte

/-- FREE VALUE. `cart_write : S → Word → Byte → S` of that device (R50; assumption log 7). -/
opaque Config.cartWrite : List Byte → Word → Byte → List Byte

/-- The NMI vector's address (20_memory.md R59). -/
def Config.nmiVector : Word := 0xFFFA#16

/-- The reset vector's address (R59). -/
def Config.resetVector : Word := 0xFFFC#16

/-- The vector shared by IRQ and BRK (R59). -/
def Config.irqVector : Word := 0xFFFE#16

end Sys2Proof
end

