-- ==== Sys2Proof/Syntax.lean ====
section
/-! DEFINITION. The instructions: one constructor per mnemonic of spec/opcode_table.json. A row of the table is
the constructor with the row's addressing mode as its operand form. -/

namespace Sys2Proof

/-- An instruction with its operand bytes. Each constructor's docstring names the rule of spec/ that gives its
meaning. -/
inductive Instr where
  /-- LDA, R120. -/
  | lda (o : Src)
  /-- LDX, R121. -/
  | ldx (o : Src)
  /-- LDY, R122. -/
  | ldy (o : Src)
  /-- STA, R123. -/
  | sta (m : Addr)
  /-- STX, R124. -/
  | stx (m : Addr)
  /-- STY, R125. -/
  | sty (m : Addr)
  /-- ADC, R132. -/
  | adc (o : Src)
  /-- SBC, R133. -/
  | sbc (o : Src)
  /-- AND, R134. -/
  | and (o : Src)
  /-- ORA, R135. -/
  | ora (o : Src)
  /-- EOR, R136. -/
  | eor (o : Src)
  /-- CMP, R137. -/
  | cmp (o : Src)
  /-- CPX, R138. -/
  | cpx (o : Src)
  /-- CPY, R139. -/
  | cpy (o : Src)
  /-- BIT, R140. -/
  | bit (m : Addr)
  /-- ASL, R151. -/
  | asl (t : Rmw)
  /-- LSR, R152. -/
  | lsr (t : Rmw)
  /-- ROL, R153. -/
  | rol (t : Rmw)
  /-- ROR, R154. -/
  | ror (t : Rmw)
  /-- INC, R155. -/
  | inc (m : Addr)
  /-- DEC, R156. -/
  | dec (m : Addr)
  /-- INX, R157. -/
  | inx
  /-- INY, R158. -/
  | iny
  /-- DEX, R159. -/
  | dex
  /-- DEY, R160. -/
  | dey
  /-- BCC, R171. -/
  | bcc (d : Byte)
  /-- BCS, R172. -/
  | bcs (d : Byte)
  /-- BEQ, R173. -/
  | beq (d : Byte)
  /-- BNE, R174. -/
  | bne (d : Byte)
  /-- BMI, R175. -/
  | bmi (d : Byte)
  /-- BPL, R176. -/
  | bpl (d : Byte)
  /-- BVC, R177. -/
  | bvc (d : Byte)
  /-- BVS, R178. -/
  | bvs (d : Byte)
  /-- JMP, R179. -/
  | jmp (t : JumpTarget)
  /-- JSR, R180. -/
  | jsr (w : Word)
  /-- RTS, R181. -/
  | rts
  /-- RTI, R182. -/
  | rti
  /-- BRK, R183. -/
  | brk
  /-- PHA, R190. -/
  | pha
  /-- PHP, R191. -/
  | php
  /-- PLA, R192. -/
  | pla
  /-- PLP, R193. -/
  | plp
  /-- CLC, R194. -/
  | clc
  /-- SEC, R195. -/
  | sec
  /-- CLI, R196. -/
  | cli
  /-- SEI, R197. -/
  | sei
  /-- CLD, R198. -/
  | cld
  /-- SED, R199. -/
  | sed
  /-- CLV, R200. -/
  | clv
  /-- TAX, R201. -/
  | tax
  /-- TAY, R202. -/
  | tay
  /-- TXA, R203. -/
  | txa
  /-- TYA, R204. -/
  | tya
  /-- TSX, R205. -/
  | tsx
  /-- TXS, R206. -/
  | txs
  /-- NOP, R207. -/
  | nop
  /-- *NOP, R211. `op` is the opcode byte, since several opcodes share a mode. -/
  | nopU (op : Byte) (arg : NopArg)
  /-- *LAX, R212. -/
  | laxU (m : Addr)
  /-- *SAX, R213. -/
  | saxU (m : Addr)
  /-- *SBC, R214. -/
  | sbcU (b : Byte)
  /-- *DCP, R215. -/
  | dcpU (m : Addr)
  /-- *ISB, R216. -/
  | isbU (m : Addr)
  /-- *SLO, R217. -/
  | sloU (m : Addr)
  /-- *RLA, R218. -/
  | rlaU (m : Addr)
  /-- *SRE, R219. -/
  | sreU (m : Addr)
  /-- *RRA, R220. -/
  | rraU (m : Addr)
  /-- UNMAPPED, R104. An opcode with no mapped entry (R78, R102); `op` is the opcode byte. -/
  | unmapped (op : Byte)
deriving DecidableEq, Repr

/-- The mnemonic as spec/opcode_table.json spells it (R73, R96). -/
def Instr.mnemonic : Instr → String
  | .lda _ => "LDA"
  | .ldx _ => "LDX"
  | .ldy _ => "LDY"
  | .sta _ => "STA"
  | .stx _ => "STX"
  | .sty _ => "STY"
  | .adc _ => "ADC"
  | .sbc _ => "SBC"
  | .and _ => "AND"
  | .ora _ => "ORA"
  | .eor _ => "EOR"
  | .cmp _ => "CMP"
  | .cpx _ => "CPX"
  | .cpy _ => "CPY"
  | .bit _ => "BIT"
  | .asl _ => "ASL"
  | .lsr _ => "LSR"
  | .rol _ => "ROL"
  | .ror _ => "ROR"
  | .inc _ => "INC"
  | .dec _ => "DEC"
  | .inx => "INX"
  | .iny => "INY"
  | .dex => "DEX"
  | .dey => "DEY"
  | .bcc _ => "BCC"
  | .bcs _ => "BCS"
  | .beq _ => "BEQ"
  | .bne _ => "BNE"
  | .bmi _ => "BMI"
  | .bpl _ => "BPL"
  | .bvc _ => "BVC"
  | .bvs _ => "BVS"
  | .jmp _ => "JMP"
  | .jsr _ => "JSR"
  | .rts => "RTS"
  | .rti => "RTI"
  | .brk => "BRK"
  | .pha => "PHA"
  | .php => "PHP"
  | .pla => "PLA"
  | .plp => "PLP"
  | .clc => "CLC"
  | .sec => "SEC"
  | .cli => "CLI"
  | .sei => "SEI"
  | .cld => "CLD"
  | .sed => "SED"
  | .clv => "CLV"
  | .tax => "TAX"
  | .tay => "TAY"
  | .txa => "TXA"
  | .tya => "TYA"
  | .tsx => "TSX"
  | .txs => "TXS"
  | .nop => "NOP"
  | .nopU _ _ => "*NOP"
  | .laxU _ => "*LAX"
  | .saxU _ => "*SAX"
  | .sbcU _ => "*SBC"
  | .dcpU _ => "*DCP"
  | .isbU _ => "*ISB"
  | .sloU _ => "*SLO"
  | .rlaU _ => "*RLA"
  | .sreU _ => "*SRE"
  | .rraU _ => "*RRA"
  | .unmapped _ => "UNMAPPED"

end Sys2Proof
end

