-- ==== Sys2Proof/WellFormed.lean ====
section
/-! DEFINITION. Which instruction terms an opcode map of spec/30_encoding.md R75 holds, from the "Opcodes:" line
of each instruction's own rule. -/

namespace Sys2Proof

/-- The mode tag of a memory operand (R80). -/
def Addr.mode : Addr → Mode
  | .zeroPage _ => .zeroPage
  | .zeroPageX _ => .zeroPageX
  | .zeroPageY _ => .zeroPageY
  | .absolute _ => .absolute
  | .absoluteX _ => .absoluteX
  | .absoluteY _ => .absoluteY
  | .indexedIndirect _ => .indexedIndirect
  | .indirectIndexed _ => .indirectIndexed

/-- The mode tag of a read operand. -/
def Src.mode : Src → Mode
  | .immediate _ => .immediate
  | .mem m => m.mode

/-- The mode tag of a shift operand. -/
def Rmw.mode : Rmw → Mode
  | .accumulator => .accumulator
  | .mem m => m.mode

/-- The mode tag of a JMP operand. -/
def JumpTarget.mode : JumpTarget → Mode
  | .absolute _ => .absolute
  | .indirect _ => .indirect

/-- The mode tag of an unofficial NOP's operand. -/
def NopArg.mode : NopArg → Mode
  | .implied => .implied
  | .immediate _ => .immediate
  | .mem m => m.mode

/-- The mode tag of an instruction (R75). An unmapped opcode consumes no operand byte (R104). -/
def Instr.mode : Instr → Mode
  | .lda o | .ldx o | .ldy o | .adc o | .sbc o | .and o | .ora o | .eor o | .cmp o | .cpx o | .cpy o => o.mode
  | .sta m | .stx m | .sty m | .bit m | .inc m | .dec m | .laxU m | .saxU m | .dcpU m | .isbU m | .sloU m
  | .rlaU m | .sreU m | .rraU m => m.mode
  | .asl t | .lsr t | .rol t | .ror t => t.mode
  | .bcc _ | .bcs _ | .beq _ | .bne _ | .bmi _ | .bpl _ | .bvc _ | .bvs _ => .relative
  | .jmp t => t.mode
  | .jsr _ => .absolute
  | .sbcU _ => .immediate
  | .nopU _ arg => arg.mode
  | .inx | .iny | .dex | .dey | .rts | .rti | .brk | .pha | .php | .pla | .plp | .clc | .sec | .cli | .sei
  | .cld | .sed | .clv | .tax | .tay | .txa | .tya | .tsx | .txs | .nop | .unmapped _ => .implied

/-- The eight forms of ADC, AND, CMP, EOR, LDA, ORA and SBC (R120, R132-R137). -/
def Mode.readForms : List Mode :=
  [.immediate, .zeroPage, .zeroPageX, .absolute, .absoluteX, .absoluteY, .indexedIndirect, .indirectIndexed]

/-- The seven forms of STA (R123) and of the unofficial read-modify-write instructions (R215-R220). -/
def Mode.indexedForms : List Mode :=
  [.zeroPage, .zeroPageX, .absolute, .absoluteX, .absoluteY, .indexedIndirect, .indirectIndexed]

/-- The memory forms of the official read-modify-write instructions (R151-R156). -/
def Mode.rmwForms : List Mode := [.zeroPage, .zeroPageX, .absolute, .absoluteX]

/-- The opcodes of R211, by mode. -/
def nopOpcodes : Mode → List Byte
  | .implied => [0x1A, 0x3A, 0x5A, 0x7A, 0xDA, 0xFA]
  | .immediate => [0x80, 0x82, 0x89, 0xC2, 0xE2]
  | .zeroPage => [0x04, 0x44, 0x64]
  | .zeroPageX => [0x14, 0x34, 0x54, 0x74, 0xD4, 0xF4]
  | .absolute => [0x0C]
  | .absoluteX => [0x1C, 0x3C, 0x5C, 0x7C, 0xDC, 0xFC]
  | .accumulator | .zeroPageY | .absoluteY | .relative | .indirect | .indexedIndirect | .indirectIndexed => []

/-- The 25 opcodes of R78, unmapped in every configuration. -/
def alwaysUnmapped : List Byte :=
  [0x02, 0x0B, 0x12, 0x22, 0x2B, 0x32, 0x42, 0x4B, 0x52, 0x62, 0x6B, 0x72, 0x8B, 0x92, 0x93, 0x9B, 0x9C, 0x9E,
   0x9F, 0xAB, 0xB2, 0xBB, 0xCB, 0xD2, 0xF2]

/-- The 80 unofficial opcodes (R77), in the order of R211-R220. -/
def unofficialOpcodes : List Byte :=
  nopOpcodes .implied ++ nopOpcodes .immediate ++ nopOpcodes .zeroPage ++ nopOpcodes .zeroPageX ++
  nopOpcodes .absolute ++ nopOpcodes .absoluteX ++
  [0xA3, 0xA7, 0xAF, 0xB3, 0xB7, 0xBF] ++ [0x83, 0x87, 0x8F, 0x97] ++ [0xEB] ++
  [0xC3, 0xC7, 0xCF, 0xD3, 0xD7, 0xDB, 0xDF] ++ [0xE3, 0xE7, 0xEF, 0xF3, 0xF7, 0xFB, 0xFF] ++
  [0x03, 0x07, 0x0F, 0x13, 0x17, 0x1B, 0x1F] ++ [0x23, 0x27, 0x2F, 0x33, 0x37, 0x3B, 0x3F] ++
  [0x43, 0x47, 0x4F, 0x53, 0x57, 0x5B, 0x5F] ++ [0x63, 0x67, 0x6F, 0x73, 0x77, 0x7B, 0x7F]

/-- Under UNOFFICIAL = `u`, the opcode map has an entry for this term (R75, R77, R78): its operand form is one the
instruction's rule lists, an unofficial instruction only under nestest, and an unmapped opcode is one `u` leaves
unmapped. -/
def Instr.wf (u : Unofficial) (i : Instr) : Bool :=
  match i with
  | .lda o | .adc o | .sbc o | .and o | .ora o | .eor o | .cmp o => o.mode ∈ Mode.readForms
  | .ldx o => o.mode ∈ [Mode.immediate, .zeroPage, .zeroPageY, .absolute, .absoluteY]
  | .ldy o => o.mode ∈ [Mode.immediate, .zeroPage, .zeroPageX, .absolute, .absoluteX]
  | .cpx o | .cpy o => o.mode ∈ [Mode.immediate, .zeroPage, .absolute]
  | .sta m => m.mode ∈ Mode.indexedForms
  | .stx m => m.mode ∈ [Mode.zeroPage, .zeroPageY, .absolute]
  | .sty m => m.mode ∈ [Mode.zeroPage, .zeroPageX, .absolute]
  | .bit m => m.mode ∈ [Mode.zeroPage, .absolute]
  | .asl t | .lsr t | .rol t | .ror t => t.mode ∈ Mode.accumulator :: Mode.rmwForms
  | .inc m | .dec m => m.mode ∈ Mode.rmwForms
  | .nopU op arg => u = .nestest ∧ op ∈ nopOpcodes arg.mode
  | .laxU m =>
    u = .nestest ∧
      m.mode ∈ [Mode.indexedIndirect, .zeroPage, .absolute, .indirectIndexed, .zeroPageY, .absoluteY]
  | .saxU m => u = .nestest ∧ m.mode ∈ [Mode.indexedIndirect, .zeroPage, .absolute, .zeroPageY]
  | .sbcU _ => u = .nestest
  | .dcpU m | .isbU m | .sloU m | .rlaU m | .sreU m | .rraU m => u = .nestest ∧ m.mode ∈ Mode.indexedForms
  | .unmapped op => op ∈ alwaysUnmapped ∨ u = .off ∧ op ∈ unofficialOpcodes
  | .bcc _ | .bcs _ | .beq _ | .bne _ | .bmi _ | .bpl _ | .bvc _ | .bvs _ | .jmp _ | .jsr _
  | .inx | .iny | .dex | .dey | .rts | .rti | .brk | .pha | .php | .pla | .plp | .clc | .sec | .cli | .sei
  | .cld | .sed | .clv | .tax | .tay | .txa | .tya | .tsx | .txs | .nop => true

end Sys2Proof
end

