-- ==== Sys2Proof/Decode.lean ====
section
/-! DEFINITION. The byte-order and bit-field helpers, the dispatch ROM, the decoder and, after it, the encoder
(spec/30_encoding.md R70-R79). -/

namespace Sys2Proof

/-! ### Bit fields and byte order (00_scope.md R10, 20_memory.md R48) -/

/-- `hi(w) = w[15:8]` (R10). -/
def hi (w : Word) : Byte := w.extractLsb' 8 8

/-- `lo(w) = w[7:0]` (R10). -/
def lo (w : Word) : Byte := w.extractLsb' 0 8

/-- The Word `h << 8 | l` (R10, R48: low byte first in memory). -/
def word (l h : Byte) : Word := h ++ l

/-- `zext_16(b)` (R10). -/
def zext (b : Byte) : Word := b.setWidth 16

/-- `sext_16(b)` (R10). -/
def sext (b : Byte) : Word := b.signExtend 16

/-- The number of operand bytes a mode consumes (R70, R95). -/
def Mode.operandBytes : Mode → Nat
  | .implied | .accumulator => 0
  | .immediate | .zeroPage | .zeroPageX | .zeroPageY | .relative | .indexedIndirect | .indirectIndexed => 1
  | .absolute | .absoluteX | .absoluteY | .indirect => 2

/-- The length of an instruction in bytes (R72). -/
def Instr.length (i : Instr) : Nat := 1 + i.mode.operandBytes

/-! ### The dispatch ROM (R73, R75) -/

/-- A mapped entry of the dispatch table (R73). The mnemonic and the routine are the constructor that `build`
applies: it is given the operand bytes `p+1` and `p+2` (R71) and uses those its mode consumes. -/
structure Entry where
  build : Byte → Byte → Instr
  mode : Mode
  base : Nat
  penalty : Bool := false
  official : Bool := true

/-- A `+` cell of R75: the opcode is in the page-cross penalty class (R106). -/
def Entry.plus (e : Entry) : Entry := { e with penalty := true }

/-- A `*` cell of R75: an unofficial opcode (R77). -/
def Entry.star (e : Entry) : Entry := { e with official := false }

/-- An instruction that reads, on an operand in memory. -/
def rd (c : Src → Instr) (m : Addr) : Instr := c (.mem m)

/-- A shift or rotate, on an operand in memory. -/
def rw (c : Rmw → Instr) (m : Addr) : Instr := c (.mem m)

/-- An unofficial NOP with an operand in memory. -/
def nopAt (op : Byte) (m : Addr) : Instr := .nopU op (.mem m)

/-- An unofficial NOP with an immediate operand. -/
def nopImm (op b : Byte) : Instr := .nopU op (.immediate b)

/-- A cell of R75 with mode impl. -/
def impl (i : Instr) (base : Nat) : Entry := { build := fun _ _ => i, mode := .implied, base := base }

/-- A cell of R75 with mode A. -/
def acc (c : Rmw → Instr) (base : Nat) : Entry :=
  { build := fun _ _ => c .accumulator, mode := .accumulator, base := base }

/-- A cell of R75 with mode #, of an instruction whose operand is one byte. -/
def immB (c : Byte → Instr) (base : Nat) : Entry :=
  { build := fun b _ => c b, mode := .immediate, base := base }

/-- A cell of R75 with mode #. -/
def imm (c : Src → Instr) (base : Nat) : Entry := immB (fun b => c (.immediate b)) base

/-- A cell of R75 with mode zp. -/
def zp (c : Addr → Instr) (base : Nat) : Entry :=
  { build := fun b _ => c (.zeroPage b), mode := .zeroPage, base := base }

/-- A cell of R75 with mode zp,X. -/
def zpX (c : Addr → Instr) (base : Nat) : Entry :=
  { build := fun b _ => c (.zeroPageX b), mode := .zeroPageX, base := base }

/-- A cell of R75 with mode zp,Y. -/
def zpY (c : Addr → Instr) (base : Nat) : Entry :=
  { build := fun b _ => c (.zeroPageY b), mode := .zeroPageY, base := base }

/-- A cell of R75 with mode abs, of an instruction whose operand is one Word. -/
def absW (c : Word → Instr) (base : Nat) : Entry :=
  { build := fun l h => c (word l h), mode := .absolute, base := base }

/-- A cell of R75 with mode abs. -/
def absM (c : Addr → Instr) (base : Nat) : Entry := absW (fun w => c (.absolute w)) base

/-- The absolute cell of JMP. -/
def absJ (c : JumpTarget → Instr) (base : Nat) : Entry := absW (fun w => c (.absolute w)) base

/-- A cell of R75 with mode abs,X. -/
def absX (c : Addr → Instr) (base : Nat) : Entry :=
  { build := fun l h => c (.absoluteX (word l h)), mode := .absoluteX, base := base }

/-- A cell of R75 with mode abs,Y. -/
def absY (c : Addr → Instr) (base : Nat) : Entry :=
  { build := fun l h => c (.absoluteY (word l h)), mode := .absoluteY, base := base }

/-- A cell of R75 with mode rel. -/
def rel (c : Byte → Instr) (base : Nat) : Entry := { build := fun d _ => c d, mode := .relative, base := base }

/-- The cell of R75 with mode (ind). -/
def ind (c : JumpTarget → Instr) (base : Nat) : Entry :=
  { build := fun l h => c (.indirect (word l h)), mode := .indirect, base := base }

/-- A cell of R75 with mode (zp,X). -/
def indX (c : Addr → Instr) (base : Nat) : Entry :=
  { build := fun b _ => c (.indexedIndirect b), mode := .indexedIndirect, base := base }

/-- A cell of R75 with mode (zp),Y. -/
def indY (c : Addr → Instr) (base : Nat) : Entry :=
  { build := fun b _ => c (.indirectIndexed b), mode := .indirectIndexed, base := base }

/-- Opcodes 0x00-0x0F of the map (R75). -/
def rom0 : List (Option Entry) :=
  [.some (impl .brk 7), .some (indX (rd .ora) 6), .none, .some (Entry.star (indX .sloU 8)),
   .some (Entry.star (zp (nopAt 0x04) 3)), .some (zp (rd .ora) 3), .some (zp (rw .asl) 5),
   .some (Entry.star (zp .sloU 5)), .some (impl .php 3), .some (imm .ora 2), .some (acc .asl 2), .none,
   .some (Entry.star (absM (nopAt 0x0C) 4)), .some (absM (rd .ora) 4), .some (absM (rw .asl) 6),
   .some (Entry.star (absM .sloU 6))]

/-- Opcodes 0x10-0x1F of the map (R75). -/
def rom1 : List (Option Entry) :=
  [.some (rel .bpl 2), .some (Entry.plus (indY (rd .ora) 5)), .none, .some (Entry.star (indY .sloU 8)),
   .some (Entry.star (zpX (nopAt 0x14) 4)), .some (zpX (rd .ora) 4), .some (zpX (rw .asl) 6),
   .some (Entry.star (zpX .sloU 6)), .some (impl .clc 2), .some (Entry.plus (absY (rd .ora) 4)),
   .some (Entry.star (impl (.nopU 0x1A .implied) 2)), .some (Entry.star (absY .sloU 7)),
   .some (Entry.star (Entry.plus (absX (nopAt 0x1C) 4))), .some (Entry.plus (absX (rd .ora) 4)),
   .some (absX (rw .asl) 7), .some (Entry.star (absX .sloU 7))]

/-- Opcodes 0x20-0x2F of the map (R75). -/
def rom2 : List (Option Entry) :=
  [.some (absW .jsr 6), .some (indX (rd .and) 6), .none, .some (Entry.star (indX .rlaU 8)), .some (zp .bit 3),
   .some (zp (rd .and) 3), .some (zp (rw .rol) 5), .some (Entry.star (zp .rlaU 5)), .some (impl .plp 4),
   .some (imm .and 2), .some (acc .rol 2), .none, .some (absM .bit 4), .some (absM (rd .and) 4),
   .some (absM (rw .rol) 6), .some (Entry.star (absM .rlaU 6))]

/-- Opcodes 0x30-0x3F of the map (R75). -/
def rom3 : List (Option Entry) :=
  [.some (rel .bmi 2), .some (Entry.plus (indY (rd .and) 5)), .none, .some (Entry.star (indY .rlaU 8)),
   .some (Entry.star (zpX (nopAt 0x34) 4)), .some (zpX (rd .and) 4), .some (zpX (rw .rol) 6),
   .some (Entry.star (zpX .rlaU 6)), .some (impl .sec 2), .some (Entry.plus (absY (rd .and) 4)),
   .some (Entry.star (impl (.nopU 0x3A .implied) 2)), .some (Entry.star (absY .rlaU 7)),
   .some (Entry.star (Entry.plus (absX (nopAt 0x3C) 4))), .some (Entry.plus (absX (rd .and) 4)),
   .some (absX (rw .rol) 7), .some (Entry.star (absX .rlaU 7))]

/-- Opcodes 0x40-0x4F of the map (R75). -/
def rom4 : List (Option Entry) :=
  [.some (impl .rti 6), .some (indX (rd .eor) 6), .none, .some (Entry.star (indX .sreU 8)),
   .some (Entry.star (zp (nopAt 0x44) 3)), .some (zp (rd .eor) 3), .some (zp (rw .lsr) 5),
   .some (Entry.star (zp .sreU 5)), .some (impl .pha 3), .some (imm .eor 2), .some (acc .lsr 2), .none,
   .some (absJ .jmp 3), .some (absM (rd .eor) 4), .some (absM (rw .lsr) 6), .some (Entry.star (absM .sreU 6))]

/-- Opcodes 0x50-0x5F of the map (R75). -/
def rom5 : List (Option Entry) :=
  [.some (rel .bvc 2), .some (Entry.plus (indY (rd .eor) 5)), .none, .some (Entry.star (indY .sreU 8)),
   .some (Entry.star (zpX (nopAt 0x54) 4)), .some (zpX (rd .eor) 4), .some (zpX (rw .lsr) 6),
   .some (Entry.star (zpX .sreU 6)), .some (impl .cli 2), .some (Entry.plus (absY (rd .eor) 4)),
   .some (Entry.star (impl (.nopU 0x5A .implied) 2)), .some (Entry.star (absY .sreU 7)),
   .some (Entry.star (Entry.plus (absX (nopAt 0x5C) 4))), .some (Entry.plus (absX (rd .eor) 4)),
   .some (absX (rw .lsr) 7), .some (Entry.star (absX .sreU 7))]

/-- Opcodes 0x60-0x6F of the map (R75). -/
def rom6 : List (Option Entry) :=
  [.some (impl .rts 6), .some (indX (rd .adc) 6), .none, .some (Entry.star (indX .rraU 8)),
   .some (Entry.star (zp (nopAt 0x64) 3)), .some (zp (rd .adc) 3), .some (zp (rw .ror) 5),
   .some (Entry.star (zp .rraU 5)), .some (impl .pla 4), .some (imm .adc 2), .some (acc .ror 2), .none,
   .some (ind .jmp 5), .some (absM (rd .adc) 4), .some (absM (rw .ror) 6), .some (Entry.star (absM .rraU 6))]

/-- Opcodes 0x70-0x7F of the map (R75). -/
def rom7 : List (Option Entry) :=
  [.some (rel .bvs 2), .some (Entry.plus (indY (rd .adc) 5)), .none, .some (Entry.star (indY .rraU 8)),
   .some (Entry.star (zpX (nopAt 0x74) 4)), .some (zpX (rd .adc) 4), .some (zpX (rw .ror) 6),
   .some (Entry.star (zpX .rraU 6)), .some (impl .sei 2), .some (Entry.plus (absY (rd .adc) 4)),
   .some (Entry.star (impl (.nopU 0x7A .implied) 2)), .some (Entry.star (absY .rraU 7)),
   .some (Entry.star (Entry.plus (absX (nopAt 0x7C) 4))), .some (Entry.plus (absX (rd .adc) 4)),
   .some (absX (rw .ror) 7), .some (Entry.star (absX .rraU 7))]

/-- Opcodes 0x80-0x8F of the map (R75). -/
def rom8 : List (Option Entry) :=
  [.some (Entry.star (immB (nopImm 0x80) 2)), .some (indX .sta 6), .some (Entry.star (immB (nopImm 0x82) 2)),
   .some (Entry.star (indX .saxU 6)), .some (zp .sty 3), .some (zp .sta 3), .some (zp .stx 3),
   .some (Entry.star (zp .saxU 3)), .some (impl .dey 2), .some (Entry.star (immB (nopImm 0x89) 2)),
   .some (impl .txa 2), .none, .some (absM .sty 4), .some (absM .sta 4), .some (absM .stx 4),
   .some (Entry.star (absM .saxU 4))]

/-- Opcodes 0x90-0x9F of the map (R75). -/
def rom9 : List (Option Entry) :=
  [.some (rel .bcc 2), .some (indY .sta 6), .none, .none, .some (zpX .sty 4), .some (zpX .sta 4),
   .some (zpY .stx 4), .some (Entry.star (zpY .saxU 4)), .some (impl .tya 2), .some (absY .sta 5),
   .some (impl .txs 2), .none, .none, .some (absX .sta 5), .none, .none]

/-- Opcodes 0xA0-0xAF of the map (R75). -/
def romA : List (Option Entry) :=
  [.some (imm .ldy 2), .some (indX (rd .lda) 6), .some (imm .ldx 2), .some (Entry.star (indX .laxU 6)),
   .some (zp (rd .ldy) 3), .some (zp (rd .lda) 3), .some (zp (rd .ldx) 3), .some (Entry.star (zp .laxU 3)),
   .some (impl .tay 2), .some (imm .lda 2), .some (impl .tax 2), .none, .some (absM (rd .ldy) 4),
   .some (absM (rd .lda) 4), .some (absM (rd .ldx) 4), .some (Entry.star (absM .laxU 4))]

/-- Opcodes 0xB0-0xBF of the map (R75). -/
def romB : List (Option Entry) :=
  [.some (rel .bcs 2), .some (Entry.plus (indY (rd .lda) 5)), .none,
   .some (Entry.star (Entry.plus (indY .laxU 5))), .some (zpX (rd .ldy) 4), .some (zpX (rd .lda) 4),
   .some (zpY (rd .ldx) 4), .some (Entry.star (zpY .laxU 4)), .some (impl .clv 2),
   .some (Entry.plus (absY (rd .lda) 4)), .some (impl .tsx 2), .none, .some (Entry.plus (absX (rd .ldy) 4)),
   .some (Entry.plus (absX (rd .lda) 4)), .some (Entry.plus (absY (rd .ldx) 4)),
   .some (Entry.star (Entry.plus (absY .laxU 4)))]

/-- Opcodes 0xC0-0xCF of the map (R75). -/
def romC : List (Option Entry) :=
  [.some (imm .cpy 2), .some (indX (rd .cmp) 6), .some (Entry.star (immB (nopImm 0xC2) 2)),
   .some (Entry.star (indX .dcpU 8)), .some (zp (rd .cpy) 3), .some (zp (rd .cmp) 3), .some (zp .dec 5),
   .some (Entry.star (zp .dcpU 5)), .some (impl .iny 2), .some (imm .cmp 2), .some (impl .dex 2), .none,
   .some (absM (rd .cpy) 4), .some (absM (rd .cmp) 4), .some (absM .dec 6), .some (Entry.star (absM .dcpU 6))]

/-- Opcodes 0xD0-0xDF of the map (R75). -/
def romD : List (Option Entry) :=
  [.some (rel .bne 2), .some (Entry.plus (indY (rd .cmp) 5)), .none, .some (Entry.star (indY .dcpU 8)),
   .some (Entry.star (zpX (nopAt 0xD4) 4)), .some (zpX (rd .cmp) 4), .some (zpX .dec 6),
   .some (Entry.star (zpX .dcpU 6)), .some (impl .cld 2), .some (Entry.plus (absY (rd .cmp) 4)),
   .some (Entry.star (impl (.nopU 0xDA .implied) 2)), .some (Entry.star (absY .dcpU 7)),
   .some (Entry.star (Entry.plus (absX (nopAt 0xDC) 4))), .some (Entry.plus (absX (rd .cmp) 4)),
   .some (absX .dec 7), .some (Entry.star (absX .dcpU 7))]

/-- Opcodes 0xE0-0xEF of the map (R75). -/
def romE : List (Option Entry) :=
  [.some (imm .cpx 2), .some (indX (rd .sbc) 6), .some (Entry.star (immB (nopImm 0xE2) 2)),
   .some (Entry.star (indX .isbU 8)), .some (zp (rd .cpx) 3), .some (zp (rd .sbc) 3), .some (zp .inc 5),
   .some (Entry.star (zp .isbU 5)), .some (impl .inx 2), .some (imm .sbc 2), .some (impl .nop 2),
   .some (Entry.star (immB .sbcU 2)), .some (absM (rd .cpx) 4), .some (absM (rd .sbc) 4), .some (absM .inc 6),
   .some (Entry.star (absM .isbU 6))]

/-- Opcodes 0xF0-0xFF of the map (R75). -/
def romF : List (Option Entry) :=
  [.some (rel .beq 2), .some (Entry.plus (indY (rd .sbc) 5)), .none, .some (Entry.star (indY .isbU 8)),
   .some (Entry.star (zpX (nopAt 0xF4) 4)), .some (zpX (rd .sbc) 4), .some (zpX .inc 6),
   .some (Entry.star (zpX .isbU 6)), .some (impl .sed 2), .some (Entry.plus (absY (rd .sbc) 4)),
   .some (Entry.star (impl (.nopU 0xFA .implied) 2)), .some (Entry.star (absY .isbU 7)),
   .some (Entry.star (Entry.plus (absX (nopAt 0xFC) 4))), .some (Entry.plus (absX (rd .sbc) 4)),
   .some (absX .inc 7), .some (Entry.star (absX .isbU 7))]

/-- The 256-entry dispatch table (R73, R75): `none` is an unmapped entry. -/
def dispatchROM : List (Option Entry) :=
  rom0 ++ rom1 ++ rom2 ++ rom3 ++ rom4 ++ rom5 ++ rom6 ++ rom7 ++
  rom8 ++ rom9 ++ romA ++ romB ++ romC ++ romD ++ romE ++ romF

/-! ### The decoder -/

/-- `Decode(op)` (40_step.md R102): the table's entry, but an unofficial one only under nestest. -/
def lookup (u : Unofficial) (op : Byte) : Option Entry :=
  match dispatchROM.getD op.toNat none with
  | none => none
  | some e => if e.official = false ∧ u = .off then none else some e

/-- The length of the instruction that starts with `op` (R72); an unmapped opcode consumes no operand byte
(R104). -/
def lengthOf (u : Unofficial) (op : Byte) : Nat :=
  match lookup u op with
  | none => 1
  | some e => 1 + e.mode.operandBytes

/-- The instruction of opcode `op` and the two bytes after it (R71, R74); of these it uses the operand bytes its
mode consumes. -/
def decodeBytes (u : Unofficial) (op b1 b2 : Byte) : Instr :=
  match lookup u op with
  | none => .unmapped op
  | some e => e.build b1 b2

/-- Why a list of bytes holds no instruction. -/
inductive DecodeError where
  /-- There is no opcode byte. -/
  | noOpcode
  /-- The list ends before the operand bytes of this opcode do. -/
  | truncated (op : Byte)
deriving DecidableEq, Repr

/-- Decode a list of bytes: the instruction it starts with and the rest of the list. Every opcode byte decodes
(R78 and R104 give an unmapped one its meaning); only a list that is too short is rejected. -/
def decode (u : Unofficial) : List Byte → Except DecodeError (Instr × List Byte)
  | [] => .error .noOpcode
  | op :: rest =>
    if rest.length + 1 < lengthOf u op then .error (.truncated op)
    else .ok (decodeBytes u op (rest.getD 0 0) (rest.getD 1 0), rest.drop (lengthOf u op - 1))

/-- The three bytes of a table word, the first byte in bits 7..0, with every bit from `nbits` up cleared. -/
def tableBytes (nbits w : Nat) : Byte × Byte × Byte :=
  let v := w % 2 ^ nbits
  (BitVec.ofNat 8 v, BitVec.ofNat 8 (v / 256), BitVec.ofNat 8 (v / 65536))

/-- The instruction the decoder reads from a word of spec/opcode_table.json, under nestest, the configuration
that maps all the table's unofficial rows. -/
def decodeTableWord (nbits w : Nat) : Option Instr :=
  let (b0, b1, b2) := tableBytes nbits w
  match decode .nestest [b0, b1, b2] with
  | .ok (i, _) => some i
  | .error _ => none

/-! ### The encoder

Its opcodes come from the "Opcodes:" line of each instruction's rule, not from the map above. -/

/-- The opcode of each addressing mode of one instruction, where its rule lists one. -/
structure Forms where
  immediate : Option Byte := none
  accumulator : Option Byte := none
  zeroPage : Option Byte := none
  zeroPageX : Option Byte := none
  zeroPageY : Option Byte := none
  absolute : Option Byte := none
  absoluteX : Option Byte := none
  absoluteY : Option Byte := none
  indexedIndirect : Option Byte := none
  indirectIndexed : Option Byte := none

/-- The opcode of a memory operand. -/
def Addr.opcode (f : Forms) : Addr → Option Byte
  | .zeroPage _ => f.zeroPage
  | .zeroPageX _ => f.zeroPageX
  | .zeroPageY _ => f.zeroPageY
  | .absolute _ => f.absolute
  | .absoluteX _ => f.absoluteX
  | .absoluteY _ => f.absoluteY
  | .indexedIndirect _ => f.indexedIndirect
  | .indirectIndexed _ => f.indirectIndexed

/-- The opcode of a read operand. -/
def Src.opcode (f : Forms) : Src → Option Byte
  | .immediate _ => f.immediate
  | .mem m => m.opcode f

/-- The opcode of a shift operand. -/
def Rmw.opcode (f : Forms) : Rmw → Option Byte
  | .accumulator => f.accumulator
  | .mem m => m.opcode f

/-- LDA, R120. -/
def Forms.lda : Forms :=
  { immediate := some 0xA9, zeroPage := some 0xA5, zeroPageX := some 0xB5, absolute := some 0xAD,
    absoluteX := some 0xBD, absoluteY := some 0xB9, indexedIndirect := some 0xA1, indirectIndexed := some 0xB1 }

/-- LDX, R121. -/
def Forms.ldx : Forms :=
  { immediate := some 0xA2, zeroPage := some 0xA6, zeroPageY := some 0xB6, absolute := some 0xAE,
    absoluteY := some 0xBE }

/-- LDY, R122. -/
def Forms.ldy : Forms :=
  { immediate := some 0xA0, zeroPage := some 0xA4, zeroPageX := some 0xB4, absolute := some 0xAC,
    absoluteX := some 0xBC }

/-- STA, R123. -/
def Forms.sta : Forms :=
  { zeroPage := some 0x85, zeroPageX := some 0x95, absolute := some 0x8D, absoluteX := some 0x9D,
    absoluteY := some 0x99, indexedIndirect := some 0x81, indirectIndexed := some 0x91 }

/-- STX, R124. -/
def Forms.stx : Forms :=
  { zeroPage := some 0x86, zeroPageY := some 0x96, absolute := some 0x8E }

/-- STY, R125. -/
def Forms.sty : Forms :=
  { zeroPage := some 0x84, zeroPageX := some 0x94, absolute := some 0x8C }

/-- ADC, R132. -/
def Forms.adc : Forms :=
  { immediate := some 0x69, zeroPage := some 0x65, zeroPageX := some 0x75, absolute := some 0x6D,
    absoluteX := some 0x7D, absoluteY := some 0x79, indexedIndirect := some 0x61, indirectIndexed := some 0x71 }

/-- SBC, R133. -/
def Forms.sbc : Forms :=
  { immediate := some 0xE9, zeroPage := some 0xE5, zeroPageX := some 0xF5, absolute := some 0xED,
    absoluteX := some 0xFD, absoluteY := some 0xF9, indexedIndirect := some 0xE1, indirectIndexed := some 0xF1 }

/-- AND, R134. -/
def Forms.and : Forms :=
  { immediate := some 0x29, zeroPage := some 0x25, zeroPageX := some 0x35, absolute := some 0x2D,
    absoluteX := some 0x3D, absoluteY := some 0x39, indexedIndirect := some 0x21, indirectIndexed := some 0x31 }

/-- ORA, R135. -/
def Forms.ora : Forms :=
  { immediate := some 0x09, zeroPage := some 0x05, zeroPageX := some 0x15, absolute := some 0x0D,
    absoluteX := some 0x1D, absoluteY := some 0x19, indexedIndirect := some 0x01, indirectIndexed := some 0x11 }

/-- EOR, R136. -/
def Forms.eor : Forms :=
  { immediate := some 0x49, zeroPage := some 0x45, zeroPageX := some 0x55, absolute := some 0x4D,
    absoluteX := some 0x5D, absoluteY := some 0x59, indexedIndirect := some 0x41, indirectIndexed := some 0x51 }

/-- CMP, R137. -/
def Forms.cmp : Forms :=
  { immediate := some 0xC9, zeroPage := some 0xC5, zeroPageX := some 0xD5, absolute := some 0xCD,
    absoluteX := some 0xDD, absoluteY := some 0xD9, indexedIndirect := some 0xC1, indirectIndexed := some 0xD1 }

/-- CPX, R138. -/
def Forms.cpx : Forms :=
  { immediate := some 0xE0, zeroPage := some 0xE4, absolute := some 0xEC }

/-- CPY, R139. -/
def Forms.cpy : Forms :=
  { immediate := some 0xC0, zeroPage := some 0xC4, absolute := some 0xCC }

/-- BIT, R140. -/
def Forms.bit : Forms :=
  { zeroPage := some 0x24, absolute := some 0x2C }

/-- ASL, R151. -/
def Forms.asl : Forms :=
  { accumulator := some 0x0A, zeroPage := some 0x06, zeroPageX := some 0x16, absolute := some 0x0E,
    absoluteX := some 0x1E }

/-- LSR, R152. -/
def Forms.lsr : Forms :=
  { accumulator := some 0x4A, zeroPage := some 0x46, zeroPageX := some 0x56, absolute := some 0x4E,
    absoluteX := some 0x5E }

/-- ROL, R153. -/
def Forms.rol : Forms :=
  { accumulator := some 0x2A, zeroPage := some 0x26, zeroPageX := some 0x36, absolute := some 0x2E,
    absoluteX := some 0x3E }

/-- ROR, R154. -/
def Forms.ror : Forms :=
  { accumulator := some 0x6A, zeroPage := some 0x66, zeroPageX := some 0x76, absolute := some 0x6E,
    absoluteX := some 0x7E }

/-- INC, R155. -/
def Forms.inc : Forms :=
  { zeroPage := some 0xE6, zeroPageX := some 0xF6, absolute := some 0xEE, absoluteX := some 0xFE }

/-- DEC, R156. -/
def Forms.dec : Forms :=
  { zeroPage := some 0xC6, zeroPageX := some 0xD6, absolute := some 0xCE, absoluteX := some 0xDE }

/-- *LAX, R212. -/
def Forms.laxU : Forms :=
  { zeroPage := some 0xA7, zeroPageY := some 0xB7, absolute := some 0xAF, absoluteY := some 0xBF,
    indexedIndirect := some 0xA3, indirectIndexed := some 0xB3 }

/-- *SAX, R213. -/
def Forms.saxU : Forms :=
  { zeroPage := some 0x87, zeroPageY := some 0x97, absolute := some 0x8F, indexedIndirect := some 0x83 }

/-- *DCP, R215. -/
def Forms.dcpU : Forms :=
  { zeroPage := some 0xC7, zeroPageX := some 0xD7, absolute := some 0xCF, absoluteX := some 0xDF,
    absoluteY := some 0xDB, indexedIndirect := some 0xC3, indirectIndexed := some 0xD3 }

/-- *ISB, R216. -/
def Forms.isbU : Forms :=
  { zeroPage := some 0xE7, zeroPageX := some 0xF7, absolute := some 0xEF, absoluteX := some 0xFF,
    absoluteY := some 0xFB, indexedIndirect := some 0xE3, indirectIndexed := some 0xF3 }

/-- *SLO, R217. -/
def Forms.sloU : Forms :=
  { zeroPage := some 0x07, zeroPageX := some 0x17, absolute := some 0x0F, absoluteX := some 0x1F,
    absoluteY := some 0x1B, indexedIndirect := some 0x03, indirectIndexed := some 0x13 }

/-- *RLA, R218. -/
def Forms.rlaU : Forms :=
  { zeroPage := some 0x27, zeroPageX := some 0x37, absolute := some 0x2F, absoluteX := some 0x3F,
    absoluteY := some 0x3B, indexedIndirect := some 0x23, indirectIndexed := some 0x33 }

/-- *SRE, R219. -/
def Forms.sreU : Forms :=
  { zeroPage := some 0x47, zeroPageX := some 0x57, absolute := some 0x4F, absoluteX := some 0x5F,
    absoluteY := some 0x5B, indexedIndirect := some 0x43, indirectIndexed := some 0x53 }

/-- *RRA, R220. -/
def Forms.rraU : Forms :=
  { zeroPage := some 0x67, zeroPageX := some 0x77, absolute := some 0x6F, absoluteX := some 0x7F,
    absoluteY := some 0x7B, indexedIndirect := some 0x63, indirectIndexed := some 0x73 }

/-- The opcode byte of an instruction, from its rule; none where the rule lists no opcode for the form. -/
def Instr.opcode : Instr → Option Byte
  | .lda o => o.opcode Forms.lda
  | .ldx o => o.opcode Forms.ldx
  | .ldy o => o.opcode Forms.ldy
  | .sta m => m.opcode Forms.sta
  | .stx m => m.opcode Forms.stx
  | .sty m => m.opcode Forms.sty
  | .adc o => o.opcode Forms.adc
  | .sbc o => o.opcode Forms.sbc
  | .and o => o.opcode Forms.and
  | .ora o => o.opcode Forms.ora
  | .eor o => o.opcode Forms.eor
  | .cmp o => o.opcode Forms.cmp
  | .cpx o => o.opcode Forms.cpx
  | .cpy o => o.opcode Forms.cpy
  | .bit m => m.opcode Forms.bit
  | .asl t => t.opcode Forms.asl
  | .lsr t => t.opcode Forms.lsr
  | .rol t => t.opcode Forms.rol
  | .ror t => t.opcode Forms.ror
  | .inc m => m.opcode Forms.inc
  | .dec m => m.opcode Forms.dec
  | .inx => some 0xE8
  | .iny => some 0xC8
  | .dex => some 0xCA
  | .dey => some 0x88
  | .bcc _ => some 0x90
  | .bcs _ => some 0xB0
  | .beq _ => some 0xF0
  | .bne _ => some 0xD0
  | .bmi _ => some 0x30
  | .bpl _ => some 0x10
  | .bvc _ => some 0x50
  | .bvs _ => some 0x70
  | .jmp (.absolute _) => some 0x4C
  | .jmp (.indirect _) => some 0x6C
  | .jsr _ => some 0x20
  | .rts => some 0x60
  | .rti => some 0x40
  | .brk => some 0x00
  | .pha => some 0x48
  | .php => some 0x08
  | .pla => some 0x68
  | .plp => some 0x28
  | .clc => some 0x18
  | .sec => some 0x38
  | .cli => some 0x58
  | .sei => some 0x78
  | .cld => some 0xD8
  | .sed => some 0xF8
  | .clv => some 0xB8
  | .tax => some 0xAA
  | .tay => some 0xA8
  | .txa => some 0x8A
  | .tya => some 0x98
  | .tsx => some 0xBA
  | .txs => some 0x9A
  | .nop => some 0xEA
  | .laxU m => m.opcode Forms.laxU
  | .saxU m => m.opcode Forms.saxU
  | .sbcU _ => some 0xEB
  | .dcpU m => m.opcode Forms.dcpU
  | .isbU m => m.opcode Forms.isbU
  | .sloU m => m.opcode Forms.sloU
  | .rlaU m => m.opcode Forms.rlaU
  | .sreU m => m.opcode Forms.sreU
  | .rraU m => m.opcode Forms.rraU
  | .nopU op _ => some op
  | .unmapped op => some op

/-- The operand bytes of a memory operand, a Word low byte first (R71). -/
def Addr.operands : Addr → List Byte
  | .zeroPage b | .zeroPageX b | .zeroPageY b | .indexedIndirect b | .indirectIndexed b => [b]
  | .absolute w | .absoluteX w | .absoluteY w => [lo w, hi w]

/-- The operand bytes of a read operand. -/
def Src.operands : Src → List Byte
  | .immediate b => [b]
  | .mem m => m.operands

/-- The operand bytes of a shift operand. -/
def Rmw.operands : Rmw → List Byte
  | .accumulator => []
  | .mem m => m.operands

/-- The operand bytes of a JMP operand. -/
def JumpTarget.operands : JumpTarget → List Byte
  | .absolute w | .indirect w => [lo w, hi w]

/-- The operand bytes of an unofficial NOP. -/
def NopArg.operands : NopArg → List Byte
  | .implied => []
  | .immediate b => [b]
  | .mem m => m.operands

/-- The operand bytes of an instruction (R71). -/
def Instr.operands : Instr → List Byte
  | .lda o | .ldx o | .ldy o | .adc o | .sbc o | .and o | .ora o | .eor o | .cmp o | .cpx o | .cpy o => o.operands
  | .sta m | .stx m | .sty m | .bit m | .inc m | .dec m | .laxU m | .saxU m | .dcpU m | .isbU m | .sloU m
  | .rlaU m | .sreU m | .rraU m => m.operands
  | .asl t | .lsr t | .rol t | .ror t => t.operands
  | .bcc d | .bcs d | .beq d | .bne d | .bmi d | .bpl d | .bvc d | .bvs d => [d]
  | .jmp t => t.operands
  | .jsr w => [lo w, hi w]
  | .sbcU b => [b]
  | .nopU _ arg => arg.operands
  | .inx | .iny | .dex | .dey | .rts | .rti | .brk | .pha | .php | .pla | .plp | .clc | .sec | .cli | .sei
  | .cld | .sed | .clv | .tax | .tay | .txa | .tya | .tsx | .txs | .nop | .unmapped _ => []

/-- The bytes of an instruction in increasing address order (R70, R71); none where no opcode has its form. -/
def encode (i : Instr) : Option (List Byte) := i.opcode.map (· :: i.operands)

end Sys2Proof
end

