-- ==== Sys2Proof/Machine/State.lean ====
section
/-! DEFINITION. The machine's state as plain data (spec/10_state.md), the reasons a step could stop, and the
state after power-on. -/

namespace Sys2Proof.Machine

/-- A store of Bytes: (cell index, Byte) pairs, indexes strictly rising, no entry equal to what an unlisted cell
reads as (`Memory.wf`). -/
abbrev Memory := List Host.Cell

/-- The two bank counts an NROM image may have (20_memory.md R51). -/
inductive PrgBanks where
  | one
  | two
deriving DecidableEq, Repr

/-- An NROM image (R51): its bank count and the PRG buffer, `prg`, indexed from 0. -/
structure Nrom where
  banks : PrgBanks
  prg : Memory
deriving DecidableEq, Repr

/-- The cartridge on the bus, the parameter CART (00_scope.md R6, R50): the default NROM (R51, D10), or any other
device, of which the model assumes nothing but its interface. -/
inductive Cartridge where
  /-- NROM: its state is the image, and a write is a no-op (R51). -/
  | nrom (image : Nrom)
  /-- A device in the state `state`, a value of R50's type S, with the cart_read and cart_write of Config
  (assumption log 7). -/
  | device (state : List Byte)
deriving DecidableEq, Repr

/-- The bits of the status byte P (10_state.md R25), bit 0 first. -/
inductive Flag where
  | c | z | i | d | b | u | v | n
deriving DecidableEq, Repr

/-- Everything the spec gives the machine (10_state.md R39), and two fields of the model's own: `irq` and
`params`. -/
structure State where
  /-- Accumulator (R20). -/
  a : Byte
  /-- Index register X (R21). -/
  x : Byte
  /-- Index register Y (R21). -/
  y : Byte
  /-- Stack pointer, an offset in the stack page (R23). -/
  sp : Byte
  /-- Program counter (R22). -/
  pc : Word
  /-- The storage of the status byte P (R24, R25). Bit 5 is hardwired to 1 (R26): `State.status` is how P reads,
  `State.setFlag` and `State.setStatus` how it is written. -/
  p : Byte
  /-- Cycle counter (R33). -/
  cycles : BitVec 64
  /-- Halted latch (R31). -/
  halted : Bool
  /-- Pending-NMI latch (R34). -/
  nmiPending : Bool
  /-- The model's own: the level the host holds on the `irq` input (R34, 60_exceptions.md R237; assumption log 8).
  No step changes it. -/
  irq : Bool
  /-- Breakpoint register, read by the driver's run loop only (R35). -/
  breakpoint : Option Word
  /-- The 2048 cells of internal RAM (20_memory.md R42). -/
  ram : Memory
  /-- The cartridge (20_memory.md R50). -/
  cart : Cartridge
  /-- The model's own: the parameters of 00_scope.md R6 (assumption log 1, 2, 3). No step changes them. -/
  params : Params
deriving DecidableEq, Repr

/-- Why a step stops with a fault: never. The bus, the stack and the arithmetic raise none (60_exceptions.md
R232), and the one synchronous fault of the spec, the decode failure, is a next state with the halted latch set
(40_step.md R104; assumption log 10), so this type has no constructor. Safe: nothing is lost. -/
inductive Fault where
deriving DecidableEq, Repr

/-- Why an instruction has no meaning in the model. -/
inductive Refusal where
  /-- Raised only by a rejected arm of `exec`, for an instruction that has no meaning yet; there is none left.
  Safe: the model stops where the hardware goes on. -/
  | notModelled (mnemonic : String)
deriving DecidableEq, Repr

/-- What `exec` and `step` answer. -/
abbrev Out := Host.Outcome State Fault Refusal

/-- The cartridge of `State.reset`: a 32 KiB image with no byte listed, so every byte 0x00 (DESIGN CHOICE,
assumption log 5). -/
def Cartridge.blank : Cartridge := .nrom { banks := .two, prg := [] }

/-- The machine after `power_on()` (10_state.md R37) with RAM_INIT all 0x00 (DESIGN CHOICE, assumption log 4),
the blank cartridge (assumption log 5), the default parameters and no request from the host. The pc is
ReadWord(0xFFFC) of that cartridge. -/
def State.reset : State where
  a := 0x00
  x := 0x00
  y := 0x00
  sp := 0xFD
  pc := 0x0000
  p := 0x24
  cycles := 7
  halted := false
  nmiPending := false
  irq := false
  breakpoint := none
  ram := []
  cart := Cartridge.blank
  params := {}

end Sys2Proof.Machine
end

