-- ==== Sys2Proof/Machine/Flags.lean ====
section
/-! DEFINITION. The status byte P (spec/10_state.md R24-R30) and every flag computation (42_alu.md R130, R131;
43_shift_incdec.md). -/

namespace Sys2Proof.Machine

/-! ### The status byte -/

/-- The bit number of a flag in P (R25). -/
def Flag.bit : Flag → Nat
  | .c => 0
  | .z => 1
  | .i => 2
  | .d => 3
  | .b => 4
  | .u => 5
  | .v => 6
  | .n => 7

/-- The Byte with only the flag's bit set. -/
def Flag.mask (f : Flag) : Byte := 1#8 <<< f.bit

/-- `v` with the flag's bit written to `b` and the other seven unchanged (R28). -/
def putFlag (v : Byte) (f : Flag) (b : Bool) : Byte := if b then v ||| f.mask else v &&& ~~~f.mask

/-- P as it reads: the unused bit is 1 at every observation (R26). -/
def State.status (s : State) : Byte := s.p ||| 0x20#8

/-- A write of P as a whole: the unused bit is hardwired to 1 (R25, R26). -/
def State.setStatus (v : Byte) (s : State) : State := { s with p := v ||| 0x20#8 }

/-- Query a flag (R28). -/
def State.flag (s : State) (f : Flag) : Bool := s.status.getLsbD f.bit

/-- `SetFlag(f, b)`: bit f written, the other seven as they were (R28). No instruction calls it for U, which reads
as 1 whatever is stored (R26). -/
def State.setFlag (f : Flag) (b : Bool) (s : State) : State := { s with p := putFlag s.p f b }

/-- `SetNZ(v)` (R27). -/
def State.setNZ (v : Byte) (s : State) : State := (s.setFlag .z (v == 0)).setFlag .n (v.getLsbD 7)

/-- The byte PHP and BRK push: bits 4 and 5 forced set (R29, 45_stack_flag_transfer.md R191). -/
def State.statusPushed (s : State) : Byte := s.status ||| 0x30#8

/-- The byte an interrupt entry pushes: B clear, U set (60_exceptions.md R240). -/
def State.statusInterrupted (s : State) : Byte := (s.status &&& 0xEF#8) ||| 0x20#8

/-- P written from a byte popped from the stack: B keeps its live value and U is 1 (45_stack_flag_transfer.md
R193). -/
def State.pullStatus (v : Byte) (s : State) : State :=
  s.setStatus ((v &&& 0xCF#8) ||| (s.status &&& 0x10#8) ||| 0x20#8)

/-! ### Arithmetic -/

/-- A Byte result with the carry and the overflow an addition gives. -/
structure Sum where
  result : Byte
  carry : Bool
  overflow : Bool
deriving DecidableEq, Repr

/-- `AddWithCarry` on bytes (42_alu.md R130): the sum is computed exactly, then narrowed. D is not read (R30). -/
def addBytes (a m : Byte) (c : Bool) : Sum :=
  let s := a.toNat + m.toNat + c.toNat
  let r := BitVec.ofNat 8 s
  { result := r
    carry := decide (s > 0xFF)
    overflow := (a.getLsbD 7 == m.getLsbD 7) && (r.getLsbD 7 != a.getLsbD 7) }

/-- `AddWithCarry(m)` (R130): C, V, a, then N and Z of the result. -/
def State.addWithCarry (m : Byte) (s : State) : State :=
  let r := addBytes s.a m (s.flag .c)
  { (s.setFlag .c r.carry).setFlag .v r.overflow with a := r.result }.setNZ r.result

/-- `Compare(r, m)` (R131): C, Z and N; no register is written and V keeps its value. -/
def State.compare (r m : Byte) (s : State) : State :=
  ((s.setFlag .c (decide (m.toNat ≤ r.toNat))).setFlag .z (r == m)).setFlag .n ((r - m).getLsbD 7)

/-- The flags of BIT (R140): Z of `a & m`, N and V the bits 7 and 6 of m. -/
def State.testBits (m : Byte) (s : State) : State :=
  ((s.setFlag .z (s.a &&& m == 0)).setFlag .n (m.getLsbD 7)).setFlag .v (m.getLsbD 6)

/-! ### Shifts and rotates -/

/-- A shifted Byte and the bit shifted out of it. -/
structure Shift where
  result : Byte
  carry : Bool
deriving DecidableEq, Repr

/-- ASL (43_shift_incdec.md R151). -/
def shiftLeft (v : Byte) : Shift := { result := v <<< 1, carry := v.getLsbD 7 }

/-- LSR (R152). -/
def shiftRight (v : Byte) : Shift := { result := v >>> 1, carry := v.getLsbD 0 }

/-- ROL (R153): the prior carry goes into bit 0. -/
def rotateLeft (c : Bool) (v : Byte) : Shift :=
  { result := (v <<< 1) ||| (if c then 0x01#8 else 0x00#8), carry := v.getLsbD 7 }

/-- ROR (R154): the prior carry goes into bit 7. -/
def rotateRight (c : Bool) (v : Byte) : Shift :=
  { result := (v >>> 1) ||| (if c then 0x80#8 else 0x00#8), carry := v.getLsbD 0 }

end Sys2Proof.Machine
end

