-- ==== Sys2Proof/Machine/Ops.lean ====
section
/-! DEFINITION. The named operations over memory and registers: the stores, the bus (spec/20_memory.md), the
stack, taking an exception and returning from it (60_exceptions.md R240, R241), and fetching an instruction
(40_step.md R100-R102). -/

namespace Sys2Proof.Machine

/-! ### A store of Bytes -/

/-- What a cell that is not listed reads as: the one definition of it (assumption log 4 and 5). -/
def Memory.unlisted : Byte := 0x00#8

/-- The Byte in cell `k`. -/
def Memory.get : Memory → Nat → Byte
  | [], _ => Memory.unlisted
  | (j, b) :: m, k => if j = k then b else Memory.get m k

/-- Cell `k` put before a list whose indexes are all above `k`: listed only if it differs from an unlisted cell. -/
def Memory.cons (k : Nat) (v : Byte) (m : Memory) : Memory := if v = Memory.unlisted then m else (k, v) :: m

/-- Cell `k` written to `v`, in canonical form. -/
def Memory.set : Memory → Nat → Byte → Memory
  | [], k, v => Memory.cons k v []
  | (j, b) :: m, k, v =>
    if k < j then Memory.cons k v ((j, b) :: m)
    else if k = j then Memory.cons k v m
    else (j, b) :: Memory.set m k v

/-- The indexes rise strictly from `from_` on, stay below `size`, and no entry equals an unlisted cell. -/
def Memory.wfFrom (from_ size : Nat) : Memory → Bool
  | [] => true
  | (k, v) :: m => decide (from_ ≤ k) && decide (k < size) && decide (v ≠ Memory.unlisted) && Memory.wfFrom (k + 1) size m

/-- The canonical form of a store of `size` cells. -/
def Memory.wf (size : Nat) (m : Memory) : Bool := Memory.wfFrom 0 size m

/-- The store whose cells from `k` on hold these bytes, in canonical form. -/
def Memory.ofBytes (k : Nat) : List Byte → Memory
  | [] => []
  | v :: bytes => Memory.cons k v (Memory.ofBytes (k + 1) bytes)

/-! ### The cartridge (R50, R51) -/

/-- The number of Bytes in the PRG buffer. -/
def PrgBanks.size : PrgBanks → Nat
  | .one => 0x4000
  | .two => 0x8000

/-- The mask of R51: 0x3FFF for one bank, 0x7FFF for two. -/
def PrgBanks.prgMask : PrgBanks → Word
  | .one => 0x3FFF#16
  | .two => 0x7FFF#16

/-- The index in the PRG buffer that an address in 0x8000-0xFFFF selects (R51). -/
def Nrom.prgIndex (c : Nrom) (addr : Word) : Nat := ((addr - 0x8000#16) &&& c.banks.prgMask).toNat

/-- NROM's `cart_read(addr)` for addr in 0x4020-0xFFFF (R51): below 0x8000 it is the open NROM_LOW_READ. -/
def Nrom.read (c : Nrom) (addr : Word) : Byte :=
  if addr < 0x8000#16 then Config.nromLowRead addr else Memory.get c.prg (c.prgIndex addr)

/-- `cart_read(addr)` (R50). -/
def Cartridge.read (c : Cartridge) (addr : Word) : Byte :=
  match c with
  | .nrom image => image.read addr
  | .device state => Config.cartRead state addr

/-- `cart_write(addr, v)` (R50): a no-op of NROM at every address (R51). -/
def Cartridge.write (c : Cartridge) (addr : Word) (v : Byte) : Cartridge :=
  match c with
  | .nrom image => .nrom image
  | .device state => .device (Config.cartWrite state addr v)

/-- The cartridge is not NROM, so a write may change what it reads as. -/
def Cartridge.isDevice : Cartridge → Bool
  | .nrom _ => false
  | .device _ => true

/-- NROM's PRG buffer is in canonical form and fits its bank count. -/
def Cartridge.wf : Cartridge → Bool
  | .nrom image => Memory.wf image.banks.size image.prg
  | .device _ => true

/-! ### The bus (R40-R46) -/

/-- The RAM cell an address below 0x2000 names (R42). -/
def ramIndex (addr : Word) : Nat := (addr &&& 0x07FF#16).toNat

/-- The register index forwarded to the PPU window (R44). -/
def ppuRegister (addr : Word) : Word := addr &&& 0x2007#16

/-- A read of a PPU register: the stub's constant (R44). -/
def ppuRead (_register : Word) : Byte := 0xFF#8

/-- A read in the APU window: the stub's constant (R45). -/
def apuRead (_addr : Word) : Byte := 0xFF#8

/-- `Read(addr)` (R41). -/
def State.read (s : State) (addr : Word) : Byte :=
  if addr < 0x2000#16 then Memory.get s.ram (ramIndex addr)
  else if addr < 0x4000#16 then ppuRead (ppuRegister addr)
  else if addr < 0x4020#16 then apuRead addr
  else s.cart.read addr

/-- `Write(addr, v)` (R41): RAM, or discarded by a stub, or handed to the cartridge. -/
def State.write (addr : Word) (v : Byte) (s : State) : State :=
  if addr < 0x2000#16 then { s with ram := Memory.set s.ram (ramIndex addr) v }
  else if addr < 0x4020#16 then s
  else { s with cart := s.cart.write addr v }

/-- Both addresses name one RAM cell (R42). -/
def sameCell (e addr : Word) : Bool := decide (e < 0x2000#16) && decide (addr < 0x2000#16) && (ramIndex e == ramIndex addr)

/-- A write at `e` may change what `addr` reads as: they are one RAM cell (R42), or both reach a cartridge that is not
NROM (R50). -/
def State.writeReaches (s : State) (e addr : Word) : Bool :=
  sameCell e addr || (s.cart.isDevice && decide (0x4020#16 ≤ e) && decide (0x4020#16 ≤ addr))

/-- `ReadWord(addr)`: two Byte reads, low byte first, `addr + 1` wraps (R46). -/
def State.readWord (s : State) (addr : Word) : Word := word (s.read addr) (s.read (addr + 1))

/-- `WriteWord(addr, w)` (R46). -/
def State.writeWord (addr w : Word) (s : State) : State := (s.write addr (lo w)).write (addr + 1) (hi w)

/-- The Word at a page-zero pointer, its high byte read from `(z + 1) mod 256` (30_encoding.md R92, R93). -/
def State.readPointer (s : State) (z : Byte) : Word := word (s.read (zext z)) (s.read (zext (z + 1)))

/-- The Word at a pointer, its high byte read in the pointer's own page (30_encoding.md R91). -/
def State.readInPage (s : State) (ptr : Word) : Word :=
  word (s.read ptr) (s.read (word (lo ptr + 1) (hi ptr)))

/-- A page crossing: the two addresses differ in their high byte (00_scope.md R12). -/
def crosses (target base : Word) : Bool := hi target != hi base

/-! ### Registers and counter -/

/-- pc moved past `n` instruction bytes, wrapping (10_state.md R22, 40_step.md R101). -/
def State.advance (n : Nat) (s : State) : State := { s with pc := s.pc + BitVec.ofNat 16 n }

/-- `cycles <- cycles + n`, modulo 2^64 (40_step.md R105, 10_state.md R33). -/
def State.charge (n : Nat) (s : State) : State := { s with cycles := s.cycles + BitVec.ofNat 64 n }

/-- A register load with its flags: `a <- v; SetNZ(v)`. -/
def State.loadA (v : Byte) (s : State) : State := { s with a := v }.setNZ v

/-- `x <- v; SetNZ(v)`. -/
def State.loadX (v : Byte) (s : State) : State := { s with x := v }.setNZ v

/-- `y <- v; SetNZ(v)`. -/
def State.loadY (v : Byte) (s : State) : State := { s with y := v }.setNZ v

/-- `pc <- target`. -/
def State.jump (target : Word) (s : State) : State := { s with pc := target }

/-! ### The stack (20_memory.md R54-R58) -/

/-- `StackAddr(s) = 0x0100 | s` (R55). -/
def stackAddr (sp : Byte) : Word := 0x0100#16 ||| zext sp

/-- `Push(v)`: write, then decrement (R56). -/
def State.push (v : Byte) (s : State) : State := { s.write (stackAddr s.sp) v with sp := s.sp - 1 }

/-- `PushWord(w)`: high byte first (R58). -/
def State.pushWord (w : Word) (s : State) : State := (s.push (hi w)).push (lo w)

/-- The pointer moved by `n` pops, wrapping in the page (R55, R57). -/
def State.popped (n : Nat) (s : State) : State := { s with sp := s.sp + BitVec.ofNat 8 n }

/-- The Byte the `n`-th pop from here reads, counting from 1: increment, then read (R57). -/
def State.top (s : State) (n : Nat) : Byte := s.read (stackAddr (s.sp + BitVec.ofNat 8 n))

/-- The Word whose low byte the `n`-th pop and whose high byte the pop after it reads (R58). -/
def State.topWord (s : State) (n : Nat) : Word := word (s.top n) (s.top (n + 1))

/-- `Pop()` (R57): the Byte and the state after it. -/
def State.pop (s : State) : Byte × State := (s.top 1, s.popped 1)

/-- `PopWord()` (R58). -/
def State.popWord (s : State) : Word × State := (s.topWord 1, s.popped 2)

/-! ### Taking an exception, and returning from one -/

/-- The entry that BRK, IRQ and NMI share (60_exceptions.md R240, 44_branch_jump.md R183): push the return
address and the status byte, set I, and go to the address the vector holds. -/
def State.enterVector (returnTo : Word) (pushed : Byte) (vector : Word) (s : State) : State :=
  let s := ((s.pushWord returnTo).push pushed).setFlag .i true
  s.jump (s.readWord vector)

/-- `InterruptEntry(vector)` for IRQ and NMI (R240): it saves pc and P with B clear and costs 7 cycles. -/
def State.interruptEntry (vector : Word) (s : State) : State :=
  (s.enterVector s.pc s.statusInterrupted vector).charge 7

/-- The return (R241, 44_branch_jump.md R182): pop P by the PLP rule, then pc, not incremented. -/
def State.returnFromInterrupt (s : State) : State :=
  ((s.pullStatus (s.top 1)).popped 3).jump (s.topWord 2)

/-- `DecodeFailure` (40_step.md R104) of the opcode at pc: the latch is set and pc is one past the opcode, or on it
under DECODE_FAIL_PC_ROLLBACK; nothing else changes. -/
def State.decodeFailure (s : State) : State :=
  { s with halted := true, pc := if s.params.decodeFailPcRollback then s.pc else s.pc + 1 }

/-! ### The start of a step (40_step.md R100, 60_exceptions.md R238) -/

/-- What a step does instead of an instruction, by priority: nothing while halted (R108), then a pending NMI
(R236), then an unmasked IRQ (R237); none if it runs the instruction at pc. -/
def State.beforeFetch (s : State) : Option State :=
  if s.halted then some s
  else if s.nmiPending then some ({ s with nmiPending := false }.interruptEntry Config.nmiVector)
  else if s.irq && !s.flag .i then some (s.interruptEntry Config.irqVector)
  else none

/-- The instruction at pc (R101, R102): its opcode and operand bytes read through the bus in increasing address
order, wrapping. -/
def State.fetchInstr (s : State) : Instr :=
  decodeBytes s.params.unofficial (s.read s.pc) (s.read (s.pc + 1)) (s.read (s.pc + 2))

/-! ### Placing an instruction from outside -/

/-- A Byte can be placed at this address: RAM, or the PRG buffer of NROM. -/
def State.placeable (s : State) (addr : Word) : Bool :=
  decide (addr < 0x2000#16) || (!s.cart.isDevice && decide (0x8000#16 ≤ addr))

/-- The Byte stored from outside at a placeable address: into RAM, or into NROM's image. -/
def State.place (addr : Word) (v : Byte) (s : State) : State :=
  if addr < 0x2000#16 then { s with ram := Memory.set s.ram (ramIndex addr) v }
  else if addr < 0x8000#16 then s
  else
    match s.cart with
    | .nrom image => { s with cart := .nrom { image with prg := Memory.set image.prg (image.prgIndex addr) v } }
    | .device _ => s

/-- Where a placed instruction goes: at pc, or at 0x0000 where pc is in a window that holds no Byte. -/
def State.placeAt (s : State) : Word :=
  if s.placeable s.pc && s.placeable (s.pc + 1) && s.placeable (s.pc + 2) then s.pc else 0x0000#16

/-- Everything the next step needs in order to fetch and run the instruction of these bytes: the bytes in place, no
halt and no interrupt before the fetch, and the unofficial opcodes mapped if this is one. -/
def State.placeInstr (b0 b1 b2 : Byte) (s : State) : State :=
  let addr := s.placeAt
  let s := ((s.place addr b0).place (addr + 1) b1).place (addr + 2) b2
  { s with
    pc := addr
    halted := false
    nmiPending := false
    irq := s.irq && s.flag .i
    params := { s.params with
      unofficial := if (lookup .off b0).isNone && (lookup .nestest b0).isSome then .nestest
        else s.params.unofficial } }

end Sys2Proof.Machine
end

