-- ==== Sys2Proof/Machine/Operands.lean ====
section
/-! DEFINITION. Every operand form: effective addresses and page crossings (spec/30_encoding.md R80-R95), operand
values (43_shift_incdec.md R150), and the cycle costs of each class of instruction (30_encoding.md R75,
40_step.md R105, R106). -/

namespace Sys2Proof.Machine

/-! ### Effective addresses (R84-R93) -/

/-- The address an indexed mode starts from, before the index is added; the effective address of the others. -/
def baseAddress (m : Addr) (s : State) : Word :=
  match m with
  | .zeroPage b | .zeroPageX b | .zeroPageY b => zext b
  | .absolute w | .absoluteX w | .absoluteY w => w
  | .indexedIndirect b => s.readPointer (b + s.x)
  | .indirectIndexed z => s.readPointer z

/-- `ea` of `Resolve` for a memory mode (R84-R89, R92, R93). -/
def effectiveAddress (m : Addr) (s : State) : Word :=
  match m with
  | .zeroPage b => zext b
  | .zeroPageX b => zext (b + s.x)
  | .zeroPageY b => zext (b + s.y)
  | .absolute w => w
  | .absoluteX w => w + zext s.x
  | .absoluteY w => w + zext s.y
  | .indexedIndirect b => s.readPointer (b + s.x)
  | .indirectIndexed z => s.readPointer z + zext s.y

/-- `crossed` of `Resolve` for a memory mode: false but for absolute_x, absolute_y and indirect_indexed (R95). -/
def pageCrossed (m : Addr) (s : State) : Bool :=
  match m with
  | .absoluteX _ | .absoluteY _ | .indirectIndexed _ => crosses (effectiveAddress m s) (baseAddress m s)
  | .zeroPage _ | .zeroPageX _ | .zeroPageY _ | .absolute _ | .indexedIndirect _ => false

/-- The target of a branch whose following instruction is at `next` (R90). -/
def branchTarget (next : Word) (d : Byte) : Word := next + sext d

/-- The target of JMP (R87, R91). -/
def jumpAddress (t : JumpTarget) (s : State) : Word :=
  match t with
  | .absolute w => w
  | .indirect ptr => s.readInPage ptr

/-! ### Operand values -/

/-- `M = Read(ea)` of a memory operand. -/
def memValue (m : Addr) (s : State) : Byte := s.read (effectiveAddress m s)

/-- `M` of an instruction that reads: the immediate byte (R83) or the Byte in memory. -/
def srcValue (o : Src) (s : State) : Byte :=
  match o with
  | .immediate b => b
  | .mem m => memValue m s

/-- The operand of a shift or rotate (R150). -/
def rmwValue (t : Rmw) (s : State) : Byte :=
  match t with
  | .accumulator => s.a
  | .mem m => memValue m s

/-- The write of a shift's result: the accumulator, or one write to the effective address it had at `before`
(R150). -/
def rmwStore (t : Rmw) (before : State) (r : Byte) (s : State) : State :=
  match t with
  | .accumulator => { s with a := r }
  | .mem m => s.write (effectiveAddress m before) r

/-! ### Cycle costs -/

/-- Base cost of an instruction that reads a memory operand (R75). -/
def readBase : Addr → Nat
  | .zeroPage _ => 3
  | .zeroPageX _ | .zeroPageY _ | .absolute _ | .absoluteX _ | .absoluteY _ => 4
  | .indexedIndirect _ => 6
  | .indirectIndexed _ => 5

/-- Base cost of a store (R75). -/
def storeBase : Addr → Nat
  | .zeroPage _ => 3
  | .zeroPageX _ | .zeroPageY _ | .absolute _ => 4
  | .absoluteX _ | .absoluteY _ => 5
  | .indexedIndirect _ | .indirectIndexed _ => 6

/-- Base cost of a read-modify-write of memory (R75). -/
def modifyBase : Addr → Nat
  | .zeroPage _ => 5
  | .zeroPageX _ | .zeroPageY _ | .absolute _ => 6
  | .absoluteX _ | .absoluteY _ => 7
  | .indexedIndirect _ | .indirectIndexed _ => 8

/-- What a read of a memory operand costs: the base cost, and one more on a page crossing, since every read in an
indexed mode is in the penalty class (R106). -/
def readCost (m : Addr) (s : State) : Nat := readBase m + (pageCrossed m s).toNat

/-- What an instruction that reads costs (R75, R106). -/
def srcCost (o : Src) (s : State) : Nat :=
  match o with
  | .immediate _ => 2
  | .mem m => readCost m s

/-- What a shift or rotate costs; it never pays the penalty (R150). -/
def rmwCost : Rmw → Nat
  | .accumulator => 2
  | .mem m => modifyBase m

/-- What JMP costs (44_branch_jump.md R179). -/
def jumpCost : JumpTarget → Nat
  | .absolute _ => 3
  | .indirect _ => 5

/-- What an unofficial NOP costs (46_unofficial.md R211). -/
def nopCost (arg : NopArg) (s : State) : Nat :=
  match arg with
  | .implied | .immediate _ => 2
  | .mem m => readCost m s

/-- What a branch costs: 2, one more when taken, and one more when the target is on another page than the next
instruction (R170). -/
def branchCost (taken crossed : Bool) : Nat := 2 + if taken then 1 + crossed.toNat else 0

/-! ### Retiring an instruction -/

/-- An instruction of mode `mode` retires: pc moves past its bytes, its effect `f` acts on that state, and its
cost is added (40_step.md R100, R105). -/
def retire (mode : Mode) (cost : Nat) (f : State → State) (s : State) : Out :=
  .next ((f (s.advance (1 + mode.operandBytes))).charge cost)

/-- The common rule of the branches (44_branch_jump.md R170). -/
def branch (taken : Bool) (d : Byte) (s : State) : Out :=
  let next := s.pc + 2
  retire .relative (branchCost taken (crosses (branchTarget next d) next))
    (fun t => if taken then t.jump (branchTarget next d) else t) s

/-- A read-modify-write of memory (R150): the Byte at the effective address is read once, `f` of it is written
once, and `after` acts on that result. -/
def modifyMem (m : Addr) (f : Byte → Byte) (after : Byte → State → State) (s : State) : Out :=
  let r := f (memValue m s)
  retire m.mode (modifyBase m) (fun t => after r (t.write (effectiveAddress m s) r)) s

/-- A shift of memory whose result `after` combines with the accumulator (46_unofficial.md R217-R220): the carry
is the bit shifted out. -/
def shiftMem (m : Addr) (f : Byte → Shift) (after : Byte → State → State) (s : State) : Out :=
  let r := f (memValue m s)
  retire m.mode (modifyBase m)
    (fun t => after r.result ((t.setFlag .c r.carry).write (effectiveAddress m s) r.result)) s

/-- A shift or rotate (R150): the carry is the bit shifted out, N and Z are the result's, and the result is
written back. -/
def shift (t : Rmw) (f : Byte → Shift) (s : State) : Out :=
  let r := f (rmwValue t s)
  retire t.mode (rmwCost t) (fun u => rmwStore t s r.result ((u.setFlag .c r.carry).setNZ r.result)) s

end Sys2Proof.Machine
end

