-- ==== Sys2Proof/Machine/Alu.lean ====
section
/-! DEFINITION. The meanings of arithmetic, logic and compare (spec/42_alu.md). -/

namespace Sys2Proof.Machine

/-- ADC (R132): `AddWithCarry(M)`. -/
def execAdc (o : Src) (s : State) : Out :=
  retire o.mode (srcCost o s) (State.addWithCarry (srcValue o s)) s

/-- SBC (R133): `AddWithCarry(~M)`. -/
def execSbc (o : Src) (s : State) : Out :=
  retire o.mode (srcCost o s) (State.addWithCarry (~~~srcValue o s)) s

/-- AND (R134): `a <- a & M; SetNZ(a)`. -/
def execAnd (o : Src) (s : State) : Out :=
  retire o.mode (srcCost o s) (State.loadA (s.a &&& srcValue o s)) s

/-- ORA (R135): `a <- a | M; SetNZ(a)`. -/
def execOra (o : Src) (s : State) : Out :=
  retire o.mode (srcCost o s) (State.loadA (s.a ||| srcValue o s)) s

/-- EOR (R136): `a <- a ^ M; SetNZ(a)`. -/
def execEor (o : Src) (s : State) : Out :=
  retire o.mode (srcCost o s) (State.loadA (s.a ^^^ srcValue o s)) s

/-- CMP (R137): `Compare(a, M)`. -/
def execCmp (o : Src) (s : State) : Out :=
  retire o.mode (srcCost o s) (State.compare s.a (srcValue o s)) s

/-- CPX (R138): `Compare(x, M)`. -/
def execCpx (o : Src) (s : State) : Out :=
  retire o.mode (srcCost o s) (State.compare s.x (srcValue o s)) s

/-- CPY (R139): `Compare(y, M)`. -/
def execCpy (o : Src) (s : State) : Out :=
  retire o.mode (srcCost o s) (State.compare s.y (srcValue o s)) s

/-- BIT (R140): Z of `a & M`, N and V the bits 7 and 6 of M. -/
def execBit (m : Addr) (s : State) : Out := retire m.mode (readCost m s) (State.testBits (memValue m s)) s

end Sys2Proof.Machine
end

