-- ==== Sys2Proof/Machine/BranchJump.lean ====
section
/-! DEFINITION. The meanings of the branches, jumps, subroutine calls, BRK and RTI (spec/44_branch_jump.md). -/

namespace Sys2Proof.Machine

/-- BCC (R171): branch if C = 0. -/
def execBcc (d : Byte) (s : State) : Out := branch (!s.flag .c) d s

/-- BCS (R172): branch if C = 1. -/
def execBcs (d : Byte) (s : State) : Out := branch (s.flag .c) d s

/-- BEQ (R173): branch if Z = 1. -/
def execBeq (d : Byte) (s : State) : Out := branch (s.flag .z) d s

/-- BNE (R174): branch if Z = 0. -/
def execBne (d : Byte) (s : State) : Out := branch (!s.flag .z) d s

/-- BMI (R175): branch if N = 1. -/
def execBmi (d : Byte) (s : State) : Out := branch (s.flag .n) d s

/-- BPL (R176): branch if N = 0. -/
def execBpl (d : Byte) (s : State) : Out := branch (!s.flag .n) d s

/-- BVC (R177): branch if V = 0. -/
def execBvc (d : Byte) (s : State) : Out := branch (!s.flag .v) d s

/-- BVS (R178): branch if V = 1. -/
def execBvs (d : Byte) (s : State) : Out := branch (s.flag .v) d s

/-- JMP (R179): `pc <- ea`. -/
def execJmp (t : JumpTarget) (s : State) : Out := retire t.mode (jumpCost t) (State.jump (jumpAddress t s)) s

/-- JSR (R180): push the address of its own last byte, then `pc <- ea`. -/
def execJsr (w : Word) (s : State) : Out := retire .absolute 6 (fun t => (t.pushWord (t.pc - 1)).jump w) s

/-- RTS (R181): `pc <- PopWord() + 1`. -/
def execRts (s : State) : Out := retire .implied 6 (fun t => (t.popped 2).jump (t.topWord 1 + 1)) s

/-- RTI (R182): the return from an interrupt. -/
def execRti (s : State) : Out := retire .implied 6 State.returnFromInterrupt s

/-- BRK (R183): skip the padding byte, then the shared entry through the IRQ vector, with B and U set in the
pushed copy of P. -/
def execBrk (s : State) : Out :=
  retire .implied 7 (fun t => t.enterVector (t.pc + 1) t.statusPushed Config.irqVector) s

end Sys2Proof.Machine
end

