-- ==== Sys2Proof/Machine/LoadStore.lean ====
section
/-! DEFINITION. The meanings of the loads and stores (spec/41_load_store.md). -/

namespace Sys2Proof.Machine

/-- LDA (R120): `a <- M; SetNZ(a)`. -/
def execLda (o : Src) (s : State) : Out := retire o.mode (srcCost o s) (State.loadA (srcValue o s)) s

/-- LDX (R121): `x <- M; SetNZ(x)`. -/
def execLdx (o : Src) (s : State) : Out := retire o.mode (srcCost o s) (State.loadX (srcValue o s)) s

/-- LDY (R122): `y <- M; SetNZ(y)`. -/
def execLdy (o : Src) (s : State) : Out := retire o.mode (srcCost o s) (State.loadY (srcValue o s)) s

/-- STA (R123): `Write(ea, a)`. -/
def execSta (m : Addr) (s : State) : Out :=
  retire m.mode (storeBase m) (State.write (effectiveAddress m s) s.a) s

/-- STX (R124): `Write(ea, x)`. -/
def execStx (m : Addr) (s : State) : Out :=
  retire m.mode (storeBase m) (State.write (effectiveAddress m s) s.x) s

/-- STY (R125): `Write(ea, y)`. -/
def execSty (m : Addr) (s : State) : Out :=
  retire m.mode (storeBase m) (State.write (effectiveAddress m s) s.y) s

end Sys2Proof.Machine
end

