-- ==== Sys2Proof/Machine/ShiftIncDec.lean ====
section
/-! DEFINITION. The meanings of the shifts, rotates, increments and decrements (spec/43_shift_incdec.md). -/

namespace Sys2Proof.Machine

/-- ASL (R151). -/
def execAsl (t : Rmw) (s : State) : Out := shift t shiftLeft s

/-- LSR (R152). -/
def execLsr (t : Rmw) (s : State) : Out := shift t shiftRight s

/-- ROL (R153): the carry is read before it is written. -/
def execRol (t : Rmw) (s : State) : Out := shift t (rotateLeft (s.flag .c)) s

/-- ROR (R154): the carry is read before it is written. -/
def execRor (t : Rmw) (s : State) : Out := shift t (rotateRight (s.flag .c)) s

/-- INC (R155): `r <- (v + 1) mod 256; Write(ea, r); SetNZ(r)`. -/
def execInc (m : Addr) (s : State) : Out := modifyMem m (· + 1) State.setNZ s

/-- DEC (R156): `r <- (v - 1) mod 256; Write(ea, r); SetNZ(r)`. -/
def execDec (m : Addr) (s : State) : Out := modifyMem m (· - 1) State.setNZ s

/-- INX (R157): `x <- (x + 1) mod 256; SetNZ(x)`. -/
def execInx (s : State) : Out := retire .implied 2 (State.loadX (s.x + 1)) s

/-- INY (R158): `y <- (y + 1) mod 256; SetNZ(y)`. -/
def execIny (s : State) : Out := retire .implied 2 (State.loadY (s.y + 1)) s

/-- DEX (R159): `x <- (x - 1) mod 256; SetNZ(x)`. -/
def execDex (s : State) : Out := retire .implied 2 (State.loadX (s.x - 1)) s

/-- DEY (R160): `y <- (y - 1) mod 256; SetNZ(y)`. -/
def execDey (s : State) : Out := retire .implied 2 (State.loadY (s.y - 1)) s

end Sys2Proof.Machine
end

