-- ==== Sys2Proof/Machine/StackFlagTransfer.lean ====
section
/-! DEFINITION. The meanings of the stack instructions, flag set and clear, transfers and NOP
(spec/45_stack_flag_transfer.md). -/

namespace Sys2Proof.Machine

/-- PHA (R190): `Push(a)`. -/
def execPha (s : State) : Out := retire .implied 3 (State.push s.a) s

/-- PHP (R191): `Push(P | 0x30)`; the live P keeps its value. -/
def execPhp (s : State) : Out := retire .implied 3 (State.push s.statusPushed) s

/-- PLA (R192): `a <- Pop(); SetNZ(a)`. -/
def execPla (s : State) : Out := retire .implied 4 (fun t => (t.popped 1).loadA (t.top 1)) s

/-- PLP (R193): P from the pulled byte, but B keeps its live value and U is 1. -/
def execPlp (s : State) : Out := retire .implied 4 (fun t => (t.popped 1).pullStatus (t.top 1)) s

/-- CLC (R194): `P.C <- 0`. -/
def execClc (s : State) : Out := retire .implied 2 (State.setFlag .c false) s

/-- SEC (R195): `P.C <- 1`. -/
def execSec (s : State) : Out := retire .implied 2 (State.setFlag .c true) s

/-- CLI (R196): `P.I <- 0`. -/
def execCli (s : State) : Out := retire .implied 2 (State.setFlag .i false) s

/-- SEI (R197): `P.I <- 1`. -/
def execSei (s : State) : Out := retire .implied 2 (State.setFlag .i true) s

/-- CLD (R198): `P.D <- 0`. -/
def execCld (s : State) : Out := retire .implied 2 (State.setFlag .d false) s

/-- SED (R199): `P.D <- 1`. -/
def execSed (s : State) : Out := retire .implied 2 (State.setFlag .d true) s

/-- CLV (R200): `P.V <- 0`. -/
def execClv (s : State) : Out := retire .implied 2 (State.setFlag .v false) s

/-- TAX (R201): `x <- a; SetNZ(x)`. -/
def execTax (s : State) : Out := retire .implied 2 (State.loadX s.a) s

/-- TAY (R202): `y <- a; SetNZ(y)`. -/
def execTay (s : State) : Out := retire .implied 2 (State.loadY s.a) s

/-- TXA (R203): `a <- x; SetNZ(a)`. -/
def execTxa (s : State) : Out := retire .implied 2 (State.loadA s.x) s

/-- TYA (R204): `a <- y; SetNZ(a)`. -/
def execTya (s : State) : Out := retire .implied 2 (State.loadA s.y) s

/-- TSX (R205): `x <- sp; SetNZ(x)`. -/
def execTsx (s : State) : Out := retire .implied 2 (State.loadX s.sp) s

/-- TXS (R206): `sp <- x`, no flag. -/
def execTxs (s : State) : Out := retire .implied 2 (fun t => { t with sp := s.x }) s

/-- NOP (R207): only pc advances. -/
def execNop (s : State) : Out := retire .implied 2 id s

end Sys2Proof.Machine
end

