-- ==== Sys2Proof/Machine/UnofficialOps.lean ====
section
/-! DEFINITION. The meanings of the unofficial opcodes (spec/46_unofficial.md), which the decoder yields only under
UNOFFICIAL = nestest (R210), and of an unmapped opcode (40_step.md R104). -/

namespace Sys2Proof.Machine

/-- *NOP (R211): the operand's read has no side effect (20_memory.md R49) and its value is discarded, so only pc
and the cycle counter change. -/
def execNopU (_op : Byte) (arg : NopArg) (s : State) : Out := retire arg.mode (nopCost arg s) id s

/-- *LAX (R212): `a <- v; x <- v; SetNZ(v)`. -/
def execLaxU (m : Addr) (s : State) : Out :=
  retire m.mode (readCost m s) (fun t => { t with a := memValue m s }.loadX (memValue m s)) s

/-- *SAX (R213): `Write(ea, a & x)`. -/
def execSaxU (m : Addr) (s : State) : Out :=
  retire m.mode (storeBase m) (State.write (effectiveAddress m s) (s.a &&& s.x)) s

/-- *SBC, opcode 0xEB (R214): SBC with an immediate operand. -/
def execSbcU (b : Byte) (s : State) : Out := retire .immediate 2 (State.addWithCarry (~~~b)) s

/-- *DCP (R215): decrement memory, then `Compare(a, r)`. -/
def execDcpU (m : Addr) (s : State) : Out := modifyMem m (· - 1) (State.compare s.a) s

/-- *ISB (R216): increment memory, then `AddWithCarry(~r)`. -/
def execIsbU (m : Addr) (s : State) : Out := modifyMem m (· + 1) (fun r => State.addWithCarry (~~~r)) s

/-- *SLO (R217): shift memory left, then `a <- a | r; SetNZ(a)`. -/
def execSloU (m : Addr) (s : State) : Out := shiftMem m shiftLeft (fun r => State.loadA (s.a ||| r)) s

/-- *RLA (R218): rotate memory left, then `a <- a & r; SetNZ(a)`. -/
def execRlaU (m : Addr) (s : State) : Out :=
  shiftMem m (rotateLeft (s.flag .c)) (fun r => State.loadA (s.a &&& r)) s

/-- *SRE (R219): shift memory right, then `a <- a ^ r; SetNZ(a)`. -/
def execSreU (m : Addr) (s : State) : Out := shiftMem m shiftRight (fun r => State.loadA (s.a ^^^ r)) s

/-- *RRA (R220): rotate memory right, then `AddWithCarry(r)` with the carry the rotate produced. -/
def execRraU (m : Addr) (s : State) : Out := shiftMem m (rotateRight (s.flag .c)) State.addWithCarry s

/-- UNMAPPED (R104): the decode failure. It does not stop the model: its effect is the halted latch and pc. -/
def execUnmapped (_op : Byte) (s : State) : Out := .next s.decodeFailure

end Sys2Proof.Machine
end

