-- ==== Sys2Proof/Machine/Step.lean ====
section
/-! DEFINITION. One call of `step()` (spec/40_step.md R100), and an instruction placed where the next step fetches. -/

namespace Sys2Proof.Machine

/-- `step()` (R100): nothing while halted, an interrupt entry if one is due (60_exceptions.md R238), else the
instruction at pc. Its Boolean result is `State.stepReturns` (Machine/Driver.lean). -/
def step (s : State) : Host.Outcome State Fault Refusal :=
  match s.beforeFetch with
  | some t => .next t
  | none => exec s.fetchInstr s

/-- `s` with the instruction of a table word placed where the next step fetches it (assumption log 16). -/
def State.withFetchWord (s : State) (nbits w : Nat) : State :=
  let (b0, b1, b2) := tableBytes nbits w
  s.placeInstr b0 b1 b2

end Sys2Proof.Machine
end

