-- ==== Sys2Proof/Machine/Cartridge.lean ====
section
/-! DEFINITION. The host's construction of a cartridge before the core runs: bank counts, the mapper registry and the
ROM file (spec/20_memory.md R51-R53, 60_exceptions.md R233). A malformed one is refused, and the core is never
started on it (92_eei_decisions.md D21). -/

namespace Sys2Proof.Machine

/-- Why a cartridge is not constructed (60_exceptions.md R233). -/
inductive ConfigError where
  /-- The file ends before its 16-byte header does (R53). -/
  | shortHeader
  /-- The first four bytes are not "NES" and 0x1A (R53). -/
  | badMagic
  /-- The mapper id has no constructor in the registry (R52). -/
  | unregisteredMapper (id : Byte)
  /-- An NROM image with a bank count other than 1 or 2 (R51). -/
  | badBankCount (banks : Nat)
  /-- The payload ends before the banks the header declares do (R53). -/
  | shortPayload
deriving DecidableEq, Repr

/-- The parameter CART where it is not the default NROM (R6, R50): the device in its initial state. -/
def Cartridge.custom : Cartridge := .device Config.cartInit

/-- The fields of the 16-byte header after its magic (R53). -/
structure RomHeader where
  prgBanks : Byte
  chrBanks : Byte
  flags6 : Byte
  flags7 : Byte
  prgRamSize : Byte
  flags9 : Byte
  flags10 : Byte
deriving DecidableEq, Repr

/-- Bit 2 of flags6: a 512-byte trainer stands before the banks (R53). -/
def RomHeader.hasTrainer (h : RomHeader) : Bool := h.flags6.getLsbD 2

/-- The mapper id (R52, 90_conflicts.md C1): flags7's high nibble above flags6's high nibble. -/
def RomHeader.mapperId (h : RomHeader) : Byte := (h.flags7 &&& 0xF0) ||| (h.flags6 >>> 4)

/-- An NROM cartridge of a bank count and the bytes of its PRG buffer (R51). -/
def Cartridge.ofBanks (banks : Nat) (prg : List Byte) : Except ConfigError Cartridge :=
  if banks = 1 then .ok (.nrom { banks := .one, prg := Memory.ofBytes 0 (prg.take PrgBanks.one.size) })
  else if banks = 2 then .ok (.nrom { banks := .two, prg := Memory.ofBytes 0 (prg.take PrgBanks.two.size) })
  else .error (.badBankCount banks)

/-- The registry (R52): mapper id 0 is NROM, and no other id is registered. -/
def Cartridge.ofMapper (id : Byte) (banks : Nat) (prg : List Byte) : Except ConfigError Cartridge :=
  if id = 0 then Cartridge.ofBanks banks prg else .error (.unregisteredMapper id)

/-- The header of a ROM file and the payload after it (R53). -/
def parseHeader : List Byte → Except ConfigError (RomHeader × List Byte)
  | m0 :: m1 :: m2 :: m3 :: prg :: chr :: f6 :: f7 :: ram :: f9 :: f10 :: _ :: _ :: _ :: _ :: _ :: payload =>
    if m0 = 0x4E ∧ m1 = 0x45 ∧ m2 = 0x53 ∧ m3 = 0x1A then
      .ok ({ prgBanks := prg, chrBanks := chr, flags6 := f6, flags7 := f7, prgRamSize := ram, flags9 := f9,
             flags10 := f10 }, payload)
    else .error .badMagic
  | _ => .error .shortHeader

/-- The cartridge of a header and its payload (R53): the trainer is skipped, the PRG bytes are the cartridge's, and
the CHR bytes after them are not reachable from the core's bus (93_implementation_defined.md U15). -/
def RomHeader.cartridge (h : RomHeader) (payload : List Byte) : Except ConfigError Cartridge :=
  let trainer := if h.hasTrainer then 512 else 0
  let prgSize := h.prgBanks.toNat * 16384
  if payload.length < trainer + prgSize + h.chrBanks.toNat * 8192 then .error .shortPayload
  else Cartridge.ofMapper h.mapperId h.prgBanks.toNat ((payload.drop trainer).take prgSize)

/-- The cartridge of a ROM file (R53). -/
def Cartridge.ofRom (bytes : List Byte) : Except ConfigError Cartridge :=
  match parseHeader bytes with
  | .ok (h, payload) => h.cartridge payload
  | .error e => .error e

end Sys2Proof.Machine
end

