-- ==== Sys2Proof/Machine/Surface.lean ====
section
/-! DEFINITION. The host's calls between steps (spec/00_scope.md R8): power-on and reset, the interrupt request
inputs, the debug overrides, and the pure reads. The bus surface is `State.read`, `State.write`, `State.readWord` and
`State.writeWord` themselves (20_memory.md R40, R46; 70_reset_and_hazards.md R272). -/

namespace Sys2Proof.Machine

/-- `power_on()` (R260) with RAM_INIT given as an argument (20_memory.md R43). The breakpoint, the cartridge and
the host's own inputs keep their values, and nothing is pushed. -/
def State.powerOn (ramInit : Memory) (s : State) : State :=
  let t := { s with
    a := 0x00, x := 0x00, y := 0x00, sp := 0xFD, p := 0x24, ram := ramInit
    halted := false, nmiPending := false, cycles := s.params.resetCycles }
  t.jump (t.readWord Config.resetVector)

/-- `reset()` (R261): sp moves by 3 with no write, I is set, pc is the reset vector's, and the latches clear. -/
def State.resetCall (s : State) : State :=
  let t := { s.setFlag .i true with
    sp := s.sp - 3, halted := false, nmiPending := false, cycles := s.params.resetCycles }
  t.jump (t.readWord Config.resetVector)

/-- The host's NMI request: an edge that sets the latch (60_exceptions.md R236). -/
def State.requestNmi (s : State) : State := { s with nmiPending := true }

/-- The host holds or drops the `irq` level (R237). -/
def State.holdIrq (level : Bool) (s : State) : State := { s with irq := level }

/-- `set_code_addr(addr)`: pc and nothing else (R247). -/
def State.setCodeAddr (addr : Word) (s : State) : State := s.jump addr

/-- The host sets or clears the breakpoint register (10_state.md R35). -/
def State.setBreakpoint (addr : Option Word) (s : State) : State := { s with breakpoint := addr }

/-- `load_cartridge(cartridge)` (R264). -/
def State.loadCartridge (c : Cartridge) (s : State) : State := { s with cart := c }

/-- What `get_registers()` returns (R253). -/
structure Registers where
  a : Byte
  x : Byte
  y : Byte
  pc : Word
  sp : Byte
  status : Byte
deriving DecidableEq, Repr

/-- `get_registers()` (R253): status is P with U = 1. -/
def State.getRegisters (s : State) : Registers :=
  { a := s.a, x := s.x, y := s.y, pc := s.pc, sp := s.sp, status := s.status }

/-- `get_cycle()` (R253). -/
def State.getCycle (s : State) : BitVec 64 := s.cycles

end Sys2Proof.Machine
end

