-- ==== Sys2Proof/Machine/Driver.lean ====
section
/-! DEFINITION. The Boolean of `step()` and the driver's run loop (spec/40_step.md R100, 60_exceptions.md R248,
70_reset_and_hazards.md R266). -/

namespace Sys2Proof.Machine

/-- The value `step()` returns (R100): true when an instruction or an interrupt entry retired, false on a decode
failure and while halted, which are the two cases that leave the halted latch set. -/
def State.stepReturns (s : State) : Bool :=
  match step s with
  | .next t => !t.halted
  | .fault _ => false
  | .refused _ => false

/-- How a run ends (R266); `atBreakpoint` is the only successful end. -/
inductive RunEnd where
  | atBreakpoint
  | decodeFailed
  | outOfFuel
deriving DecidableEq, Repr

/-- `run(fuel)` (R248): the breakpoint is checked before each step, and a step that returns false ends the run. -/
def runLoop : Nat → State → Host.Outcome (RunEnd × State) Fault Refusal
  | 0, s => .next (.outOfFuel, s)
  | fuel + 1, s =>
    if s.breakpoint = some s.pc then .next (.atBreakpoint, s)
    else
      match step s with
      | .next t => if t.halted then .next (.decodeFailed, t) else runLoop fuel t
      | .fault r => .fault r
      | .refused r => .refused r

end Sys2Proof.Machine
end

