-- ==== Sys2Proof/Safety.lean ====
section
/-! DEFINITION. What claims call a sound state and a safe run, and the words in which they say what an instruction
changes and what it leaves as it was. -/

namespace Sys2Proof

open Sys2Proof.Machine

/-! ### Sound states and safe runs -/

/-- The machine invariant: both stores are in canonical form and within their size, and the hardwired unused bit of P
is stored as 1 (spec/10_state.md R26). -/
def Sound (s : State) : Prop :=
  Memory.wf 0x800 s.ram = true ∧ s.cart.wf = true ∧ s.p.getLsbD 5 = true

/-- The core has not failed: the halted latch is clear (spec/10_state.md R31). A halted state is never a successful
end of a run (spec/70_reset_and_hazards.md R266). -/
def Running (s : State) : Prop := s.halted = false

/-- A run from `s` ends at the breakpoint within `fuel` steps, the only successful end (R266), in state `t`. -/
def Succeeds (fuel : Nat) (s t : State) : Prop := runLoop fuel s = .next (.atBreakpoint, t)

/-- The next step runs the instruction at pc: not halted, no pending NMI, no unmasked IRQ (60_exceptions.md
R238). -/
def RunsInstruction (s : State) : Prop :=
  s.halted = false ∧ s.nmiPending = false ∧ (s.irq = true → s.flag .i = true)

/-! ### What stays as it was -/

/-- The parts of State that no step changes: the host's input, its breakpoint register and the parameters
(spec/10_state.md R35, R36). -/
def SameHostSide (s t : State) : Prop :=
  t.irq = s.irq ∧ t.breakpoint = s.breakpoint ∧ t.params = s.params

/-- Every flag but the listed ones reads as before. -/
def SameFlags (except : List Flag) (s t : State) : Prop := ∀ f, f ∉ except → t.flag f = s.flag f

/-- Nothing is stored: every Byte of the address space reads as before, and the cartridge keeps its state. -/
def SameBytes (s t : State) : Prop := t.cart = s.cart ∧ ∀ addr, t.read addr = s.read addr

/-- The counter grows by `cost`, and the latches and the host's side are as before. -/
def Charges (cost : Nat) (s t : State) : Prop :=
  t.cycles = s.cycles + BitVec.ofNat 64 cost ∧ t.halted = s.halted ∧ t.nmiPending = s.nmiPending ∧ SameHostSide s t

/-- pc moves past `length` bytes, with the counter, the latches and the host's side as `Charges` says. -/
def Retires (length cost : Nat) (s t : State) : Prop :=
  t.pc = s.pc + BitVec.ofNat 16 length ∧ Charges cost s t

/-! ### What changes -/

/-- Z and N are those of the Byte `v` (spec/10_state.md R27). -/
def NZ (v : Byte) (t : State) : Prop :=
  (t.flag .z = true ↔ v = 0) ∧ (t.flag .n = true ↔ 128 ≤ v.toNat)

/-- One Byte `v` is stored at `e` (spec/20_memory.md R41, R42, R50): from 0x4020 on the cartridge takes it and below
it keeps its state; every address the write does not reach reads as before, in any state; and where the stores are in
canonical form, every address of the RAM cell that `e` names reads `v`. With NROM a write outside RAM reaches no
address. -/
def Stores (e : Word) (v : Byte) (s t : State) : Prop :=
  (t.cart = if e < 0x4020#16 then s.cart else s.cart.write e v) ∧
  (∀ addr, s.writeReaches e addr = false → t.read addr = s.read addr) ∧
  (Sound s → ∀ addr, sameCell e addr = true → t.read addr = v)

/-- pc is the Word at `vector` in `s`, low byte first (spec/20_memory.md R46, R59). -/
def LoadsVector (vector : Word) (s t : State) : Prop :=
  t.pc.toNat = (s.read (vector + 1)).toNat * 256 + (s.read vector).toNat

/-- The entry through a vector that pushes `returnTo` and `pushed` (60_exceptions.md R240, 44_branch_jump.md R183):
the three stack bytes, sp, the I flag and pc, and nothing else of the registers, flags and memory. -/
def Enters (returnTo : Word) (pushed : Byte) (vector : Word) (s t : State) : Prop :=
  LoadsVector vector s t ∧ t.sp = s.sp - 3 ∧ t.a = s.a ∧ t.x = s.x ∧ t.y = s.y ∧ t.cart = s.cart ∧
  t.flag .i = true ∧ SameFlags [.i] s t ∧
  (∀ addr, sameCell (stackAddr s.sp) addr = false → sameCell (stackAddr (s.sp - 1)) addr = false →
    sameCell (stackAddr (s.sp - 2)) addr = false → t.read addr = s.read addr) ∧
  (Sound s → t.read (stackAddr s.sp) = hi returnTo ∧ t.read (stackAddr (s.sp - 1)) = lo returnTo ∧
    t.read (stackAddr (s.sp - 2)) = pushed)

/-- A held IRQ with I clear is taken at the next step boundary, where no NMI comes before it (60_exceptions.md R237,
R238). -/
def TakesHeldIrq (t : State) : Prop :=
  t.halted = false → t.nmiPending = false → t.irq = true → t.flag .i = false →
    ∃ u, step t = .next u ∧ LoadsVector 0xFFFE t u ∧ u.flag .i = true

/-- A shift of `operand` has the result `r` and the carry `carry`: the accumulator or the Byte at the effective
address takes `r`, and N, Z and C are set from it (43_shift_incdec.md R150). -/
def Shifts (operand : Rmw) (r : Byte) (carry : Bool) (s t : State) : Prop :=
  (match operand with
    | .accumulator => t.a = r ∧ SameBytes s t
    | .mem m => t.a = s.a ∧ Stores (effectiveAddress m s) r s t) ∧
  NZ r t ∧ t.flag .c = carry ∧ SameFlags [.n, .z, .c] s t ∧ t.x = s.x ∧ t.y = s.y ∧ t.sp = s.sp

/-! ### The resolver's page-crossing flag -/

/-- The memory operand of an instruction, where it has one. -/
def memOperand : Instr → Option Addr
  | .lda (.mem m) | .ldx (.mem m) | .ldy (.mem m) | .adc (.mem m) | .sbc (.mem m) | .and (.mem m) | .ora (.mem m)
  | .eor (.mem m) | .cmp (.mem m) | .cpx (.mem m) | .cpy (.mem m) | .sta m | .stx m | .sty m | .bit m
  | .asl (.mem m) | .lsr (.mem m) | .rol (.mem m) | .ror (.mem m) | .inc m | .dec m | .nopU _ (.mem m) | .laxU m
  | .saxU m | .dcpU m | .isbU m | .sloU m | .rlaU m | .sreU m | .rraU m => some m
  | _ => none

/-- `crossed` of `Resolve` for an instruction that is no branch (spec/30_encoding.md R80, R95). -/
def crossedBy (i : Instr) (s : State) : Bool :=
  match memOperand i with
  | some m => pageCrossed m s
  | none => false

/-! ### The "Opcodes:" line of an instruction's rule (spec/40_step.md R111) -/

/-- One entry of the line: a mode with its opcode, its base cost and its `+` mark. -/
structure Form where
  mode : Mode
  opcode : Byte
  base : Nat
  plus : Bool
deriving DecidableEq, Repr

/-- `i` is listed exactly where its mode is one of the line's, and then it is encoded with that entry's opcode, and
it adds that entry's base cost, and one more on a page crossing where the entry is marked `+` (R105, R106). -/
def Listed (line : List Form) (i : Instr) : Prop :=
  (∀ u, i.wf u = true ↔ ∃ f ∈ line, f.mode = i.mode) ∧
  ∀ f ∈ line, f.mode = i.mode →
    encode i = some (f.opcode :: i.operands) ∧
    ∀ s, ∃ t, exec i s = .next t ∧
      t.cycles = s.cycles + BitVec.ofNat 64 (f.base + if f.plus = true then (crossedBy i s).toNat else 0)

/-- LDA (R120). -/
def Line.lda : List Form :=
  [⟨.immediate, 0xA9, 2, false⟩, ⟨.zeroPage, 0xA5, 3, false⟩, ⟨.zeroPageX, 0xB5, 4, false⟩,
   ⟨.absolute, 0xAD, 4, false⟩, ⟨.absoluteX, 0xBD, 4, true⟩, ⟨.absoluteY, 0xB9, 4, true⟩,
   ⟨.indexedIndirect, 0xA1, 6, false⟩, ⟨.indirectIndexed, 0xB1, 5, true⟩]

/-- LDX (R121). -/
def Line.ldx : List Form :=
  [⟨.immediate, 0xA2, 2, false⟩, ⟨.zeroPage, 0xA6, 3, false⟩, ⟨.zeroPageY, 0xB6, 4, false⟩,
   ⟨.absolute, 0xAE, 4, false⟩, ⟨.absoluteY, 0xBE, 4, true⟩]

/-- LDY (R122). -/
def Line.ldy : List Form :=
  [⟨.immediate, 0xA0, 2, false⟩, ⟨.zeroPage, 0xA4, 3, false⟩, ⟨.zeroPageX, 0xB4, 4, false⟩,
   ⟨.absolute, 0xAC, 4, false⟩, ⟨.absoluteX, 0xBC, 4, true⟩]

/-- STA (R123). -/
def Line.sta : List Form :=
  [⟨.zeroPage, 0x85, 3, false⟩, ⟨.zeroPageX, 0x95, 4, false⟩, ⟨.absolute, 0x8D, 4, false⟩,
   ⟨.absoluteX, 0x9D, 5, false⟩, ⟨.absoluteY, 0x99, 5, false⟩, ⟨.indexedIndirect, 0x81, 6, false⟩,
   ⟨.indirectIndexed, 0x91, 6, false⟩]

/-- STX (R124). -/
def Line.stx : List Form :=
  [⟨.zeroPage, 0x86, 3, false⟩, ⟨.zeroPageY, 0x96, 4, false⟩, ⟨.absolute, 0x8E, 4, false⟩]

/-- STY (R125). -/
def Line.sty : List Form :=
  [⟨.zeroPage, 0x84, 3, false⟩, ⟨.zeroPageX, 0x94, 4, false⟩, ⟨.absolute, 0x8C, 4, false⟩]

/-- ADC (R132). -/
def Line.adc : List Form :=
  [⟨.immediate, 0x69, 2, false⟩, ⟨.zeroPage, 0x65, 3, false⟩, ⟨.zeroPageX, 0x75, 4, false⟩,
   ⟨.absolute, 0x6D, 4, false⟩, ⟨.absoluteX, 0x7D, 4, true⟩, ⟨.absoluteY, 0x79, 4, true⟩,
   ⟨.indexedIndirect, 0x61, 6, false⟩, ⟨.indirectIndexed, 0x71, 5, true⟩]

/-- CMP (R137). -/
def Line.cmp : List Form :=
  [⟨.immediate, 0xC9, 2, false⟩, ⟨.zeroPage, 0xC5, 3, false⟩, ⟨.zeroPageX, 0xD5, 4, false⟩,
   ⟨.absolute, 0xCD, 4, false⟩, ⟨.absoluteX, 0xDD, 4, true⟩, ⟨.absoluteY, 0xD9, 4, true⟩,
   ⟨.indexedIndirect, 0xC1, 6, false⟩, ⟨.indirectIndexed, 0xD1, 5, true⟩]

/-- CPX (R138). -/
def Line.cpx : List Form :=
  [⟨.immediate, 0xE0, 2, false⟩, ⟨.zeroPage, 0xE4, 3, false⟩, ⟨.absolute, 0xEC, 4, false⟩]

/-- CPY (R139). -/
def Line.cpy : List Form :=
  [⟨.immediate, 0xC0, 2, false⟩, ⟨.zeroPage, 0xC4, 3, false⟩, ⟨.absolute, 0xCC, 4, false⟩]

/-- ASL (R151). -/
def Line.asl : List Form :=
  [⟨.accumulator, 0x0A, 2, false⟩, ⟨.zeroPage, 0x06, 5, false⟩, ⟨.zeroPageX, 0x16, 6, false⟩,
   ⟨.absolute, 0x0E, 6, false⟩, ⟨.absoluteX, 0x1E, 7, false⟩]

/-- LSR (R152). -/
def Line.lsr : List Form :=
  [⟨.accumulator, 0x4A, 2, false⟩, ⟨.zeroPage, 0x46, 5, false⟩, ⟨.zeroPageX, 0x56, 6, false⟩,
   ⟨.absolute, 0x4E, 6, false⟩, ⟨.absoluteX, 0x5E, 7, false⟩]

/-- ROL (R153). -/
def Line.rol : List Form :=
  [⟨.accumulator, 0x2A, 2, false⟩, ⟨.zeroPage, 0x26, 5, false⟩, ⟨.zeroPageX, 0x36, 6, false⟩,
   ⟨.absolute, 0x2E, 6, false⟩, ⟨.absoluteX, 0x3E, 7, false⟩]

/-- ROR (R154). -/
def Line.ror : List Form :=
  [⟨.accumulator, 0x6A, 2, false⟩, ⟨.zeroPage, 0x66, 5, false⟩, ⟨.zeroPageX, 0x76, 6, false⟩,
   ⟨.absolute, 0x6E, 6, false⟩, ⟨.absoluteX, 0x7E, 7, false⟩]

/-- INC (R155). -/
def Line.inc : List Form :=
  [⟨.zeroPage, 0xE6, 5, false⟩, ⟨.zeroPageX, 0xF6, 6, false⟩, ⟨.absolute, 0xEE, 6, false⟩,
   ⟨.absoluteX, 0xFE, 7, false⟩]

/-- DEC (R156). -/
def Line.dec : List Form :=
  [⟨.zeroPage, 0xC6, 5, false⟩, ⟨.zeroPageX, 0xD6, 6, false⟩, ⟨.absolute, 0xCE, 6, false⟩,
   ⟨.absoluteX, 0xDE, 7, false⟩]

/-- INX (R157). -/
def Line.inx : List Form := [⟨.implied, 0xE8, 2, false⟩]

/-- INY (R158). -/
def Line.iny : List Form := [⟨.implied, 0xC8, 2, false⟩]

/-- DEX (R159). -/
def Line.dex : List Form := [⟨.implied, 0xCA, 2, false⟩]

/-- DEY (R160). -/
def Line.dey : List Form := [⟨.implied, 0x88, 2, false⟩]

/-- JMP (R179). -/
def Line.jmp : List Form :=
  [⟨.absolute, 0x4C, 3, false⟩, ⟨.indirect, 0x6C, 5, false⟩]

/-- JSR (R180). -/
def Line.jsr : List Form := [⟨.absolute, 0x20, 6, false⟩]

/-- RTS (R181). -/
def Line.rts : List Form := [⟨.implied, 0x60, 6, false⟩]

/-- RTI (R182). -/
def Line.rti : List Form := [⟨.implied, 0x40, 6, false⟩]

/-- PHA (R190). -/
def Line.pha : List Form := [⟨.implied, 0x48, 3, false⟩]

/-- PHP (R191). -/
def Line.php : List Form := [⟨.implied, 0x08, 3, false⟩]

/-- PLA (R192). -/
def Line.pla : List Form := [⟨.implied, 0x68, 4, false⟩]

/-- PLP (R193). -/
def Line.plp : List Form := [⟨.implied, 0x28, 4, false⟩]

/-- TAX (R201). -/
def Line.tax : List Form := [⟨.implied, 0xAA, 2, false⟩]

/-- TAY (R202). -/
def Line.tay : List Form := [⟨.implied, 0xA8, 2, false⟩]

/-- TXA (R203). -/
def Line.txa : List Form := [⟨.implied, 0x8A, 2, false⟩]

/-- TYA (R204). -/
def Line.tya : List Form := [⟨.implied, 0x98, 2, false⟩]

/-- TSX (R205). -/
def Line.tsx : List Form := [⟨.implied, 0xBA, 2, false⟩]

/-- TXS (R206). -/
def Line.txs : List Form := [⟨.implied, 0x9A, 2, false⟩]

end Sys2Proof
end

