-- ==== Sys2Proof/Certificates/Slice0/Obligations.lean ====
section
/-! DEFINITION. The statements for the provers. Each docstring names the rule of spec/ it formalises. A statement
holds for every state, those no run reaches too; where it could fail in such a state its premise is `Sound`, which is
itself stated to hold after power-on and to be kept by every step. -/

open Sys2Proof Sys2Proof.Machine

/-! ## Encoding -/

/-- A few words written out from the spec's encodings, one of each family, decode to the instructions they stand for
(R71, R75; the opcode map is the spec's, from general knowledge, D3, G3, log 18). -/
def Obligations.KnownWordsDecode : Prop :=
  decode .off [0xA9, 0x2A] = .ok (.lda (.immediate 0x2A), []) ∧
  decode .off [0x9D, 0xF0, 0x02] = .ok (.sta (.absoluteX 0x02F0), []) ∧
  decode .off [0xF1, 0x10] = .ok (.sbc (.mem (.indirectIndexed 0x10)), []) ∧
  decode .off [0x2A] = .ok (.rol .accumulator, []) ∧
  decode .off [0xD0, 0xFC] = .ok (.bne 0xFC, []) ∧
  decode .off [0x6C, 0xFF, 0x02, 0xEA] = .ok (.jmp (.indirect 0x02FF), [0xEA]) ∧
  decode .off [0x28] = .ok (.plp, []) ∧
  decode .nestest [0x1F, 0xF0, 0x02] = .ok (.sloU (.absoluteX 0x02F0), []) ∧
  decode .off [0x1F, 0xF0, 0x02] = .ok (.unmapped 0x1F, [0xF0, 0x02]) ∧
  decode .nestest [0x02] = .ok (.unmapped 0x02, [])

/-- HEADLINE. Every instruction that a configuration's opcode map holds, with every operand, has an encoding, and the
decoder reads it back from those bytes, whatever bytes follow (R70-R75, R77, R102; the terms are the model's,
`Instr.wf`). -/
def Obligations.DecodeInvertsEncode : Prop :=
  ∀ (u : Unofficial) (i : Instr), i.wf u = true →
    ∃ w, encode i = some w ∧ ∀ rest, decode u (w ++ rest) = .ok (i, rest)

/-- What the decoder yields is well formed, and it consumed exactly the bytes the encoder gives for it, as many as the
instruction's length (R70-R75). -/
def Obligations.EncodeInvertsDecode : Prop :=
  ∀ (u : Unofficial) (bytes : List Byte) (i : Instr) (rest : List Byte), decode u bytes = .ok (i, rest) →
    i.wf u = true ∧ ∃ w, encode i = some w ∧ bytes = w ++ rest ∧ w.length = 1 + i.mode.operandBytes

/-- The opcodes that decode to a decode failure are the 25 of R78 in every configuration and, with UNOFFICIAL = off,
the 80 unofficial ones (R77, R102; the spec's decision D2, log 18). -/
def Obligations.UnmappedOpcodesAreTheListed : Prop :=
  ∀ (u : Unofficial) (op b1 b2 : Byte),
    decodeBytes u op b1 b2 = .unmapped op ↔ op ∈ alwaysUnmapped ∨ u = .off ∧ op ∈ unofficialOpcodes

/-- For every mapped opcode but the branches, the cycles its instruction adds are the dispatch table's base cost, and
one more when the entry is in the penalty class and the resolver crossed a page (R105, R106; the spec's decisions D3
and D4, log 18). -/
def Obligations.CyclesFollowTheOpcodeMap : Prop :=
  ∀ (u : Unofficial) (op b1 b2 : Byte) (e : Entry) (s : State), lookup u op = some e → e.mode ≠ .relative →
    ∃ t, exec (decodeBytes u op b1 b2) s = .next t ∧
      t.cycles = s.cycles + BitVec.ofNat 64
        (e.base + if e.penalty then (crossedBy (decodeBytes u op b1 b2) s).toNat else 0)

/-! ## The step -/

/-- When the bytes at pc decode to `i` and nothing comes before the fetch, the step is exec of `i` at that state; exec
itself moves pc past the instruction's bytes (R100, R101, R103). What may come before is the spec's decision D11. -/
def Obligations.StepRunsDecodedInstruction : Prop :=
  ∀ (s : State) (i : Instr) (rest : List Byte), RunsInstruction s →
    decode s.params.unofficial [s.read s.pc, s.read (s.pc + 1), s.read (s.pc + 2)] = .ok (i, rest) →
    i.wf s.params.unofficial = true ∧ step s = exec i s

/-- While halted a step returns false and changes nothing (R108; the spec's decision D6; that it is a next state is
the model's choice, log 10). -/
def Obligations.HaltedStepChangesNothing : Prop :=
  ∀ s : State, s.halted = true → step s = .next s ∧ s.stepReturns = false

/-- Every step, from every state, answers a next state: no address, no operand, no stack pointer and no opcode stops
the machine (R47, R232); that a decode failure is a next state is the model's choice (log 10). -/
def Obligations.EveryStepAnswersNextState : Prop := ∀ s : State, ∃ t, step s = .next t

/-- A pending NMI is taken before anything but a halt, whatever I and `irq` are: it saves pc and P with B clear, sets
I, goes to the address held at 0xFFFA, clears the latch and costs 7 cycles (R236, R238-R240; the spec's decisions D11,
D12 and D20 and its general knowledge G5 and G6, log 18). -/
def Obligations.NmiEntersThroughItsVector : Prop :=
  ∀ s : State, s.halted = false → s.nmiPending = true →
    ∃ t, step s = .next t ∧ Enters s.pc ((s.status &&& 0xEF) ||| 0x20) 0xFFFA s t ∧ t.nmiPending = false ∧
      t.halted = false ∧ t.cycles = s.cycles + 7 ∧ SameHostSide s t ∧ s.stepReturns = true

/-- A held IRQ with I clear is taken when no NMI is pending, the same way, through 0xFFFE (R237-R240; the spec's
decisions D11, D12 and D20 and its general knowledge G5 and G6, log 18; the held level is the model's field, log
8). -/
def Obligations.IrqEntersThroughItsVector : Prop :=
  ∀ s : State, s.halted = false → s.nmiPending = false → s.irq = true → s.flag .i = false →
    ∃ t, step s = .next t ∧ Enters s.pc ((s.status &&& 0xEF) ||| 0x20) 0xFFFE s t ∧ Charges 7 s t ∧
      s.stepReturns = true

/-- Fetching an opcode the configuration leaves unmapped halts the core: the latch and pc change, nothing else, and
the step returns false (R104; the spec's decision D6; that it is a next state is the model's choice, log 10). -/
def Obligations.DecodeFailureHaltsTheCore : Prop :=
  ∀ s : State, RunsInstruction s → lookup s.params.unofficial (s.read s.pc) = none →
    step s = .next { s with
      halted := true, pc := if s.params.decodeFailPcRollback = true then s.pc else s.pc + 1 } ∧
    s.stepReturns = false

/-- The instruction UNMAPPED completes in the decode failure's state (R104; the spec's decision D6; that it is a next
state is the model's choice, log 10). -/
def Obligations.UnmappedCompletesHalted : Prop :=
  ∀ (op : Byte) (s : State), exec (.unmapped op) s = .next { s with
    halted := true, pc := if s.params.decodeFailPcRollback = true then s.pc else s.pc + 1 }

/-- HEADLINE. Every step keeps the invariant: both stores stay canonical and within their size, and the unused bit of
P stays 1 (R26, R42). The canonical form is the model's own. -/
def Obligations.StepKeepsSound : Prop := ∀ s t : State, Sound s → step s = .next t → Sound t

/-- The state after power-on has the invariant, for the model's RAM contents and cartridge (log 4, 5). -/
def Obligations.ResetIsSound : Prop := Sound State.reset

/-- No step changes the host's input, the breakpoint register or the parameters, and none changes an NROM cartridge,
so code in ROM cannot be modified (R35, R36, R51, R64). -/
def Obligations.StepKeepsHostSide : Prop :=
  ∀ s t : State, step s = .next t →
    SameHostSide s t ∧ ∀ image, s.cart = .nrom image → t.cart = .nrom image

/-- No step changes the live break bit, and the unused bit reads 1 after every step (R26, R29). -/
def Obligations.StepKeepsBreakBit : Prop :=
  ∀ s t : State, step s = .next t → t.flag .b = s.flag .b ∧ t.flag .u = true

/-- A step that is not halted charges 2 to 8 cycles, or none at all if it ends in a decode failure (R274, derived
there from the opcode map). -/
def Obligations.StepChargesTwoToEightCycles : Prop :=
  ∀ s t : State, s.halted = false → step s = .next t →
    (t.halted = true ∧ t.cycles = s.cycles) ∨
    (t.halted = false ∧ ∃ n : Nat, 2 ≤ n ∧ n ≤ 8 ∧ t.cycles = s.cycles + BitVec.ofNat 64 n)

/-- The decimal flag has no effect: an instruction other than PHP and BRK, which push P, run with D written to any
value, ends in the same state but for D; SED, CLD, PLP and RTI write D and no other instruction does; ADC, SBC, *RRA
and *ISB compute modulo 256, whatever D holds (R30). -/
def Obligations.DecimalFlagIsInert : Prop :=
  ∀ (i : Instr) (s t : State) (b : Bool), exec i s = .next t →
    (i ≠ .php → i ≠ .brk →
      ∃ t', exec i (s.setFlag .d b) = .next t' ∧ t'.setFlag .d false = t.setFlag .d false) ∧
    (i ∉ [Instr.sed, .cld, .plp, .rti] → t.flag .d = s.flag .d) ∧
    (i = .sed → t.flag .d = true) ∧ (i = .cld → t.flag .d = false) ∧
    (i = .plp ∨ i = .rti → t.flag .d = (s.read (stackAddr (s.sp + 1))).getLsbD 3) ∧
    let c := (s.flag .c).toNat
    (∀ o, i = .adc o → t.a.toNat = (s.a.toNat + (srcValue o s).toNat + c) % 256) ∧
    (∀ o, i = .sbc o → (t.a.toNat : Int) = ((s.a.toNat : Int) - (srcValue o s).toNat - (1 - c : Nat)) % 256) ∧
    (∀ m, i = .rraU m → t.a.toNat =
      (s.a.toNat + ((memValue m s).toNat / 2 + 128 * c) + (memValue m s).toNat % 2) % 256) ∧
    ∀ m, i = .isbU m → (t.a.toNat : Int) =
      ((s.a.toNat : Int) - ((memValue m s).toNat + 1) % 256 - (1 - c : Nat)) % 256

/-! ## Power-on, reset and the run loop -/

/-- What `power_on()` leaves, for every RAM_INIT (R37, R260; the values are the spec's decision D7, from its general
knowledge G5 and G7, log 18). -/
def Obligations.PowerOnLeavesTheseValues : Prop :=
  ∀ (ramInit : Memory) (s : State),
    let t := s.powerOn ramInit
    t.a = 0x00 ∧ t.x = 0x00 ∧ t.y = 0x00 ∧ t.sp = 0xFD ∧ t.status = 0x24 ∧ t.ram = ramInit ∧ t.halted = false ∧
    t.nmiPending = false ∧ LoadsVector 0xFFFC s t ∧ t.cycles = s.params.resetCycles ∧
    t.breakpoint = s.breakpoint ∧ t.cart = s.cart ∧ t.params = s.params

/-- The model's `State.reset` is what `power_on()` leaves for the model's choice of RAM contents and cartridge
(assumption log 4, 5, 17). -/
def Obligations.ResetIsAfterPowerOn : Prop :=
  State.reset = State.reset.powerOn [] ∧ State.reset.pc = State.reset.readWord 0xFFFC ∧ State.reset.cycles = 7

/-- What `reset()` changes and keeps (R38, R261; the spec's decision D8 and its general knowledge G12, log 18). -/
def Obligations.ResetCallChangesThese : Prop :=
  ∀ s : State,
    let t := s.resetCall
    t.sp = s.sp - 3 ∧ t.flag .i = true ∧ SameFlags [.i] s t ∧ t.halted = false ∧ t.nmiPending = false ∧
    LoadsVector 0xFFFC s t ∧ t.cycles = s.params.resetCycles ∧ t.a = s.a ∧ t.x = s.x ∧ t.y = s.y ∧
    t.ram = s.ram ∧ t.breakpoint = s.breakpoint ∧ t.cart = s.cart ∧ SameBytes s t

/-- A run from a state that is not halted ends as a decode failure exactly when it leaves the core halted, and as a
success only with pc at the breakpoint (R248, R266; the spec's decisions D16 and D22, log 18). -/
def Obligations.RunEndsAsItSays : Prop :=
  ∀ (fuel : Nat) (s t : State) (e : RunEnd), Running s → runLoop fuel s = .next (e, t) →
    (e = .decodeFailed ↔ t.halted = true) ∧ (e = .atBreakpoint → t.breakpoint = some t.pc)

/-! ## The bus -/

/-- A RAM cell is one Byte at four addresses: after a write below 0x2000 the addresses that differ from it by a
multiple of 0x800 below 0x2000 read the value, and every other address reads as before; these are the addresses the
frames call the same cell (R41, R42). -/
def Obligations.RamIsMirroredFourTimes : Prop :=
  (∀ e addr : Word, sameCell e addr = true ↔
    e.toNat < 0x2000 ∧ addr.toNat < 0x2000 ∧ addr.toNat % 0x800 = e.toNat % 0x800) ∧
  ∀ (s : State) (e addr : Word) (v : Byte), Sound s → e.toNat < 0x2000 →
    (s.write e v).read addr =
      if addr.toNat < 0x2000 ∧ addr.toNat % 0x800 = e.toNat % 0x800 then v else s.read addr

/-- The PPU and APU windows read 0xFF and discard writes (R44, R45), at every address of both. -/
def Obligations.StubWindowsReadAllOnes : Prop :=
  ∀ (s : State) (addr : Word) (v : Byte), 0x2000 ≤ addr.toNat → addr.toNat < 0x4020 →
    s.read addr = 0xFF ∧ s.write addr v = s

/-- A 16 KiB image is mirrored over both halves of the ROM window, and a write to an NROM cartridge changes nothing
(R51; the mask is the spec's decision D10, log 18). -/
def Obligations.SmallImageIsMirrored : Prop :=
  ∀ (s : State) (image : Nrom), s.cart = .nrom image →
    (image.banks = .one → ∀ k : Nat, k < 0x4000 →
      s.read (0x8000 + BitVec.ofNat 16 k) = s.read (0xC000 + BitVec.ofNat 16 k)) ∧
    ∀ (addr : Word) (v : Byte), 0x4020 ≤ addr.toNat → s.write addr v = s

/-- The cartridge as a parameter: a device that is not NROM answers every read from 0x4020 on with its cart_read,
takes every write there with its cart_write, keeps its state over every other write, and is what those writes can
change, at those addresses alone (R6, R50). Its state type is the model's choice (log 7). -/
def Obligations.CartridgeDeviceTakesItsWindow : Prop :=
  ∀ (s : State) (state : List Byte), s.cart = .device state →
    (∀ (addr : Word) (v : Byte), 0x4020 ≤ addr.toNat →
      s.read addr = Config.cartRead state addr ∧
      s.write addr v = { s with cart := .device (Config.cartWrite state addr v) }) ∧
    (∀ (addr : Word) (v : Byte), addr.toNat < 0x4020 → (s.write addr v).cart = .device state) ∧
    ∀ e addr : Word, s.writeReaches e addr = true ↔
      sameCell e addr = true ∨ 0x4020 ≤ e.toNat ∧ 0x4020 ≤ addr.toNat

/-- A Word access is two Byte accesses, low byte first, at an address and the one after it, 0x0000 after 0xFFFF (R46;
the wrap is derived there). -/
def Obligations.WordAccessesAreTwoBytes : Prop :=
  (∀ (s : State) (addr : Word),
    (s.readWord addr).toNat = (s.read (addr + 1)).toNat * 256 + (s.read addr).toNat) ∧
  (∀ (s : State) (addr w : Word),
    s.writeWord addr w =
      (s.write addr (BitVec.ofNat 8 w.toNat)).write (addr + 1) (BitVec.ofNat 8 (w.toNat / 256))) ∧
  ∀ s : State, (s.readWord 0xFFFF).toNat = (s.read 0x0000).toNat * 256 + (s.read 0xFFFF).toNat

/-- A cartridge built from an image of one or two banks reads the image's bytes at 0x8000 and up, and an image of
another bank count is refused (R51; the spec's decision D10, log 18). -/
def Obligations.BuiltCartridgeReadsItsImage : Prop :=
  ∀ (banks : Nat) (prg : List Byte),
    (banks = 1 ∨ banks = 2 →
      prg.length = banks * 16384 → ∃ c, Cartridge.ofBanks banks prg = .ok c ∧ c.wf = true ∧
        ∀ k (h : k < prg.length), c.read (0x8000 + BitVec.ofNat 16 k) = prg[k]) ∧
    (banks ≠ 1 → banks ≠ 2 → Cartridge.ofBanks banks prg = .error (.badBankCount banks))

/-- The mapper id joins the high nibbles of flags7 and flags6, and only id 0 is registered (R52; the spec's reading
C1, log 18; that no other id is registered is the model's scope, log 7). -/
def Obligations.MapperIdJoinsNibbles : Prop :=
  (∀ h : RomHeader, h.mapperId.toNat = h.flags7.toNat / 16 * 16 + h.flags6.toNat / 16) ∧
  ∀ (id : Byte) (banks : Nat) (prg : List Byte), id ≠ 0 →
    Cartridge.ofMapper id banks prg = .error (.unregisteredMapper id)

/-- A Word pushed and popped comes back, with sp as it was, at every sp (R55-R58; the pop order is derived there; the
page is the spec's general knowledge G13, log 18). -/
def Obligations.PoppedWordIsPushedWord : Prop :=
  ∀ (s : State) (w : Word), Sound s → (s.pushWord w).popWord.1 = w ∧ (s.pushWord w).popWord.2.sp = s.sp

/-- Instruction bytes stored into RAM are what the next fetch reads (R64, derived there). -/
def Obligations.StoredBytesAreFetched : Prop :=
  ∀ (s : State) (b0 b1 b2 : Byte), Sound s → s.pc.toNat + 2 < 0x2000 →
    State.fetchInstr (((s.write s.pc b0).write (s.pc + 1) b1).write (s.pc + 2) b2) =
      decodeBytes s.params.unofficial b0 b1 b2

/-! ## Effective addresses -/

/-- The zero-page modes consume one byte and stay in page zero: the index is added modulo 256; zero_page_y is used
only by LDX, STX, *LAX and *SAX (R84-R86). -/
def Obligations.ZeroPageModesStayInPageZero : Prop :=
  ∀ (b : Byte) (s : State),
    (effectiveAddress (.zeroPage b) s).toNat = b.toNat ∧
    (effectiveAddress (.zeroPageX b) s).toNat = (b.toNat + s.x.toNat) % 256 ∧
    (effectiveAddress (.zeroPageY b) s).toNat = (b.toNat + s.y.toNat) % 256 ∧
    pageCrossed (.zeroPage b) s = false ∧ pageCrossed (.zeroPageX b) s = false ∧
    pageCrossed (.zeroPageY b) s = false ∧
    Mode.zeroPage.operandBytes = 1 ∧ Mode.zeroPageX.operandBytes = 1 ∧ Mode.zeroPageY.operandBytes = 1 ∧
    ∀ (u : Unofficial) (i : Instr), i.wf u = true → i.mode = .zeroPageY →
      ∃ m, i = .ldx (.mem m) ∨ i = .stx m ∨ i = .laxU m ∨ i = .saxU m

/-- The absolute modes consume two bytes of the instruction stream, the low one first, add the index modulo 65536 and
flag a change of the high byte (R87-R89). -/
def Obligations.AbsoluteModesWrapAndFlagCrossing : Prop :=
  ∀ (l h : Byte) (s : State),
    let base := h.toNat * 256 + l.toNat
    let x := (base + s.x.toNat) % 65536
    let y := (base + s.y.toNat) % 65536
    (effectiveAddress (.absolute (word l h)) s).toNat = base ∧ pageCrossed (.absolute (word l h)) s = false ∧
    (effectiveAddress (.absoluteX (word l h)) s).toNat = x ∧
    (pageCrossed (.absoluteX (word l h)) s = true ↔ x / 256 ≠ base / 256) ∧
    (effectiveAddress (.absoluteY (word l h)) s).toNat = y ∧
    (pageCrossed (.absoluteY (word l h)) s = true ↔ y / 256 ≠ base / 256) ∧
    Mode.absolute.operandBytes = 2 ∧ Mode.absoluteX.operandBytes = 2 ∧ Mode.absoluteY.operandBytes = 2 ∧
    (Addr.absolute (word l h)).operands = [l, h] ∧ (Addr.absoluteX (word l h)).operands = [l, h] ∧
    (Addr.absoluteY (word l h)).operands = [l, h] ∧
    ∀ (u : Unofficial) (rest : List Byte),
      decode u (0xAD :: l :: h :: rest) = .ok (.lda (.mem (.absolute (word l h))), rest) ∧
      decode u (0xBD :: l :: h :: rest) = .ok (.lda (.mem (.absoluteX (word l h))), rest) ∧
      decode u (0xB9 :: l :: h :: rest) = .ok (.lda (.mem (.absoluteY (word l h))), rest)

/-- (zp,X) and (zp),Y take a little-endian pointer from page zero, its high byte at 0xFF read from 0x00; the first
adds X to the pointer's place modulo 256, the second adds Y to the pointer modulo 65536 and flags a crossing (R92,
R93; the page-zero wrap of the high byte is the spec's decision D5, log 18). -/
def Obligations.PointerModesReadPageZero : Prop :=
  ∀ (b : Byte) (s : State),
    let z := (b.toNat + s.x.toNat) % 256
    let base := (s.read (BitVec.ofNat 16 ((b.toNat + 1) % 256))).toNat * 256 + (s.read (BitVec.ofNat 16 b.toNat)).toNat
    (effectiveAddress (.indexedIndirect b) s).toNat =
      (s.read (BitVec.ofNat 16 ((z + 1) % 256))).toNat * 256 + (s.read (BitVec.ofNat 16 z)).toNat ∧
    pageCrossed (.indexedIndirect b) s = false ∧
    (effectiveAddress (.indirectIndexed b) s).toNat = (base + s.y.toNat) % 65536 ∧
    (pageCrossed (.indirectIndexed b) s = true ↔ (base + s.y.toNat) % 65536 / 256 ≠ base / 256)

/-! ## Loads and stores -/

/-- LDA, LDX and LDY put the operand in their register and set N and Z from it, in every form of their opcode lines;
the operand of an immediate form is its byte, and of a memory form the Byte read at the effective address, for every
instruction that names it so (R120-R122). -/
def Obligations.LoadsSetRegisterAndFlags : Prop :=
  ∀ (o : Src) (s : State),
    (∀ b, srcValue (.immediate b) s = b) ∧
    (∀ m, srcValue (.mem m) s = s.read (effectiveAddress m s) ∧ memValue m s = s.read (effectiveAddress m s) ∧
      rmwValue (.mem m) s = s.read (effectiveAddress m s)) ∧
    rmwValue .accumulator s = s.a ∧
    Listed Line.lda (.lda o) ∧ Listed Line.ldx (.ldx o) ∧ Listed Line.ldy (.ldy o) ∧
    (∃ t, exec (.lda o) s = .next t ∧ t.a = srcValue o s ∧ NZ (srcValue o s) t ∧ t.x = s.x ∧ t.y = s.y ∧
      t.sp = s.sp ∧ SameFlags [.n, .z] s t ∧ SameBytes s t ∧ Retires (Instr.lda o).length (srcCost o s) s t) ∧
    (∃ t, exec (.ldx o) s = .next t ∧ t.x = srcValue o s ∧ NZ (srcValue o s) t ∧ t.a = s.a ∧ t.y = s.y ∧
      t.sp = s.sp ∧ SameFlags [.n, .z] s t ∧ SameBytes s t ∧ Retires (Instr.ldx o).length (srcCost o s) s t) ∧
    (∃ t, exec (.ldy o) s = .next t ∧ t.y = srcValue o s ∧ NZ (srcValue o s) t ∧ t.a = s.a ∧ t.x = s.x ∧
      t.sp = s.sp ∧ SameFlags [.n, .z] s t ∧ SameBytes s t ∧ Retires (Instr.ldy o).length (srcCost o s) s t)

/-- STA, STX and STY write their register at the effective address, in every form of their opcode lines, change no
register and no flag, and never pay for a page crossing (R123-R125). -/
def Obligations.StoresWriteEffectiveAddress : Prop :=
  ∀ (m : Addr) (s : State) (i : Instr) (v : Byte) (line : List Form),
    (i, v, line) ∈ [(Instr.sta m, s.a, Line.sta), (.stx m, s.x, Line.stx), (.sty m, s.y, Line.sty)] →
    Listed line i ∧ ∃ t, exec i s = .next t ∧ Stores (effectiveAddress m s) v s t ∧ t.a = s.a ∧ t.x = s.x ∧ t.y = s.y ∧
      t.sp = s.sp ∧ SameFlags [] s t ∧ Retires i.length (storeBase m) s t

/-! ## Arithmetic, logic, compare -/

/-- ADC adds the operand and the carry: the result modulo 256, C the unsigned carry out, V the signed overflow, N and
Z of the result, whatever D holds (R130, R132). -/
def Obligations.AdcAddsWithCarry : Prop :=
  ∀ (o : Src) (s : State), Listed Line.adc (.adc o) ∧
    let m := srcValue o s
    let sum := s.a.toNat + m.toNat + (s.flag .c).toNat
    let signed := s.a.toInt + m.toInt + ((s.flag .c).toNat : Int)
    ∃ t, exec (.adc o) s = .next t ∧ t.a.toNat = sum % 256 ∧ (t.flag .c = true ↔ 255 < sum) ∧
      (t.flag .v = true ↔ signed < -128 ∨ 127 < signed) ∧ NZ t.a t ∧ t.x = s.x ∧ t.y = s.y ∧ t.sp = s.sp ∧
      SameFlags [.n, .z, .c, .v] s t ∧ SameBytes s t ∧ Retires (Instr.adc o).length (srcCost o s) s t

/-- SBC and the unofficial *SBC subtract the operand and the borrow: the result modulo 256, C set when there is no
borrow, V the signed overflow, N and Z of the result (R133, derived there; R214 is the spec's general knowledge G8,
log 18). -/
def Obligations.SbcSubtractsWithBorrow : Prop :=
  ∀ (o : Src) (s : State) (i : Instr), i = .sbc o ∨ (∃ b, o = .immediate b ∧ i = .sbcU b) →
    let m := srcValue o s
    let borrow := 1 - (s.flag .c).toNat
    let signed := s.a.toInt - m.toInt - (borrow : Int)
    ∃ t, exec i s = .next t ∧ (t.a.toNat : Int) = ((s.a.toNat : Int) - m.toNat - borrow) % 256 ∧
      (t.flag .c = true ↔ m.toNat + borrow ≤ s.a.toNat) ∧ (t.flag .v = true ↔ signed < -128 ∨ 127 < signed) ∧
      NZ t.a t ∧ t.x = s.x ∧ t.y = s.y ∧ t.sp = s.sp ∧ SameFlags [.n, .z, .c, .v] s t ∧ SameBytes s t ∧
      Retires i.length (srcCost o s) s t

/-- AND, ORA and EOR combine the accumulator and the operand bit by bit and set N and Z (R134-R136; the spec's general
knowledge G4, log 18). -/
def Obligations.LogicCombinesBitwise : Prop :=
  ∀ (o : Src) (s : State) (i : Instr) (f : Bool → Bool → Bool),
    (i = .and o ∧ f = Bool.and) ∨ (i = .ora o ∧ f = Bool.or) ∨ (i = .eor o ∧ f = Bool.xor) →
    ∃ t, exec i s = .next t ∧
      (∀ k, k < 8 → t.a.getLsbD k = f (s.a.getLsbD k) ((srcValue o s).getLsbD k)) ∧ NZ t.a t ∧ t.x = s.x ∧
      t.y = s.y ∧ t.sp = s.sp ∧ SameFlags [.n, .z] s t ∧ SameBytes s t ∧ Retires i.length (srcCost o s) s t

/-- CMP, CPX and CPY set C, Z and N from register minus operand and change nothing else (R131, R137-R139). -/
def Obligations.CompareSetsFlagsOnly : Prop :=
  ∀ (o : Src) (s : State) (i : Instr) (r : Byte) (line : List Form),
    (i, r, line) ∈ [(Instr.cmp o, s.a, Line.cmp), (.cpx o, s.x, Line.cpx), (.cpy o, s.y, Line.cpy)] →
    let m := srcValue o s
    Listed line i ∧ ∃ t, exec i s = .next t ∧ (t.flag .c = true ↔ m.toNat ≤ r.toNat) ∧ (t.flag .z = true ↔ r = m) ∧
      (t.flag .n = true ↔ 128 ≤ (r.toNat + 256 - m.toNat) % 256) ∧ t.a = s.a ∧ t.x = s.x ∧ t.y = s.y ∧
      t.sp = s.sp ∧ SameFlags [.c, .z, .n] s t ∧ SameBytes s t ∧ Retires i.length (srcCost o s) s t

/-- BIT sets Z from `a & M` and N and V from bits 7 and 6 of M, and changes nothing else (R140; the spec's general
knowledge G4, log 18). -/
def Obligations.BitTestsMemory : Prop :=
  ∀ (m : Addr) (s : State),
    ∃ t, exec (.bit m) s = .next t ∧ (t.flag .z = true ↔ s.a &&& memValue m s = 0) ∧
      t.flag .n = (memValue m s).getLsbD 7 ∧ t.flag .v = (memValue m s).getLsbD 6 ∧ t.a = s.a ∧ t.x = s.x ∧
      t.y = s.y ∧ t.sp = s.sp ∧ SameFlags [.n, .v, .z] s t ∧ SameBytes s t ∧
      Retires (Instr.bit m).length (readCost m s) s t

/-! ## Shifts, rotates, increments, decrements -/

/-- ASL and ROL double the operand, LSR and ROR halve it; the rotates bring the prior carry in; C is the bit shifted
out; the result goes to the accumulator or back to the effective address (R150-R154). -/
def Obligations.ShiftsMoveOneBit : Prop :=
  ∀ (operand : Rmw) (s : State) (i : Instr) (r : Nat) (carry : Bool) (line : List Form),
    let v := rmwValue operand s
    let c := (s.flag .c).toNat
    (i, r, carry, line) ∈
      [(Instr.asl operand, 2 * v.toNat % 256, decide (128 ≤ v.toNat), Line.asl),
       (.lsr operand, v.toNat / 2, decide (v.toNat % 2 = 1), Line.lsr),
       (.rol operand, (2 * v.toNat + c) % 256, decide (128 ≤ v.toNat), Line.rol),
       (.ror operand, v.toNat / 2 + 128 * c, decide (v.toNat % 2 = 1), Line.ror)] →
    Listed line i ∧ ∃ t, exec i s = .next t ∧ Shifts operand (BitVec.ofNat 8 r) carry s t ∧ r < 256 ∧
      Retires i.length (rmwCost operand) s t

/-- INC and DEC add 1 to the Byte at the effective address, or subtract 1, modulo 256, and set N and Z (R155,
R156). -/
def Obligations.IncDecMemoryByOne : Prop :=
  ∀ (m : Addr) (s : State) (i : Instr) (r : Nat) (line : List Form),
    (i, r, line) ∈ [(Instr.inc m, ((memValue m s).toNat + 1) % 256, Line.inc),
      (.dec m, ((memValue m s).toNat + 255) % 256, Line.dec)] →
    Listed line i ∧ ∃ t, exec i s = .next t ∧ Stores (effectiveAddress m s) (BitVec.ofNat 8 r) s t ∧ NZ (BitVec.ofNat 8 r) t ∧
      t.a = s.a ∧ t.x = s.x ∧ t.y = s.y ∧ t.sp = s.sp ∧ SameFlags [.n, .z] s t ∧
      Retires i.length (modifyBase m) s t

/-- INX, INY, DEX and DEY move their index by 1 modulo 256 and set N and Z (R157-R160). -/
def Obligations.IndexStepsByOne : Prop :=
  ∀ s : State,
    Listed Line.inx .inx ∧ Listed Line.iny .iny ∧ Listed Line.dex .dex ∧ Listed Line.dey .dey ∧
    (∃ t, exec .inx s = .next t ∧ t.x.toNat = (s.x.toNat + 1) % 256 ∧ NZ t.x t ∧ t.y = s.y ∧ t.a = s.a ∧
      t.sp = s.sp ∧ SameFlags [.n, .z] s t ∧ SameBytes s t ∧ Retires 1 2 s t) ∧
    (∃ t, exec .iny s = .next t ∧ t.y.toNat = (s.y.toNat + 1) % 256 ∧ NZ t.y t ∧ t.x = s.x ∧ t.a = s.a ∧
      t.sp = s.sp ∧ SameFlags [.n, .z] s t ∧ SameBytes s t ∧ Retires 1 2 s t) ∧
    (∃ t, exec .dex s = .next t ∧ t.x.toNat = (s.x.toNat + 255) % 256 ∧ NZ t.x t ∧ t.y = s.y ∧ t.a = s.a ∧
      t.sp = s.sp ∧ SameFlags [.n, .z] s t ∧ SameBytes s t ∧ Retires 1 2 s t) ∧
    (∃ t, exec .dey s = .next t ∧ t.y.toNat = (s.y.toNat + 255) % 256 ∧ NZ t.y t ∧ t.x = s.x ∧ t.a = s.a ∧
      t.sp = s.sp ∧ SameFlags [.n, .z] s t ∧ SameBytes s t ∧ Retires 1 2 s t)

/-! ## Branches, jumps, subroutines, BRK -/

/-- The eight branches: pc goes to the target, the displacement read as signed and added to the next instruction's
address, exactly when the named flag has the named value; not taken costs 2 cycles, taken 3, and taken to another page
than the next instruction's 4; nothing else changes (R170-R178; the mnemonics' conditions are the spec's general
knowledge G3, log 18). -/
def Obligations.BranchesFollowTheirFlag : Prop :=
  ∀ (d : Byte) (s : State) (i : Instr) (f : Flag) (value : Bool),
    (i, f, value) ∈ [(Instr.bcc d, Flag.c, false), (.bcs d, .c, true), (.beq d, .z, true), (.bne d, .z, false),
      (.bmi d, .n, true), (.bpl d, .n, false), (.bvc d, .v, false), (.bvs d, .v, true)] →
    let next := s.pc + 2
    let target := BitVec.ofInt 16 (next.toInt + d.toInt)
    exec i s = .next { s with
      pc := if s.flag f = value then target else next
      cycles := s.cycles +
        if s.flag f = value then (if target.toNat / 256 = next.toNat / 256 then 3 else 4) else 2 }

/-- JMP goes to its Word, or to the Word its pointer holds, whose high byte is read in the pointer's own page; nothing
else but the counter changes (R91, R179). -/
def Obligations.JmpReadsPointerInItsPage : Prop :=
  ∀ (w : Word) (s : State),
    Listed Line.jmp (.jmp (.absolute w)) ∧ Listed Line.jmp (.jmp (.indirect w)) ∧
    exec (.jmp (.absolute w)) s = .next { s with pc := w, cycles := s.cycles + 3 } ∧
    ∃ target : Word,
      target.toNat = (s.read (BitVec.ofNat 16 (w.toNat / 256 * 256 + (w.toNat + 1) % 256))).toNat * 256 +
        (s.read w).toNat ∧
      exec (.jmp (.indirect w)) s = .next { s with pc := target, cycles := s.cycles + 5 }

/-- JSR pushes the address of its own last byte, high byte first, and goes to its Word (R180). -/
def Obligations.JsrPushesReturnAddress : Prop :=
  ∀ (w : Word) (s : State), Listed Line.jsr (.jsr w) ∧
    ∃ t, exec (.jsr w) s = .next t ∧ t.pc = w ∧ t.sp = s.sp - 2 ∧ t.a = s.a ∧ t.x = s.x ∧ t.y = s.y ∧
      t.cart = s.cart ∧
      SameFlags [] s t ∧ Charges 6 s t ∧
      (∀ addr, sameCell (stackAddr s.sp) addr = false → sameCell (stackAddr (s.sp - 1)) addr = false →
        t.read addr = s.read addr) ∧
      (Sound s → t.read (stackAddr s.sp) = hi (s.pc + 2) ∧ t.read (stackAddr (s.sp - 1)) = lo (s.pc + 2))

/-- RTS pops a Word, low byte first, and continues one past it; after a JSR it leaves pc at the JSR's address + 3 and
sp unchanged (R181). -/
def Obligations.RtsReturnsPastPoppedWord : Prop :=
  ∀ s : State, Listed Line.rts .rts ∧
    exec .rts s = .next { s with
      pc := word (s.read (stackAddr (s.sp + 1))) (s.read (stackAddr (s.sp + 2))) + 1
      sp := s.sp + 2
      cycles := s.cycles + 6 } ∧
    ∀ w : Word, Sound s →
      ∃ t u, exec (.jsr w) s = .next t ∧ exec .rts t = .next u ∧ u.pc = s.pc + 3 ∧ u.sp = s.sp

/-- RTI pops P, but B keeps its live value and U is 1, and then pc, unmodified; where the popped I is clear a held IRQ
is taken at the next step boundary (R182). That last clause rests on the model's `irq` field (log 8), the spec's
decisions D11 and D12 and general knowledge G5 (log 18), and its decision D15 of no delay (log 20). -/
def Obligations.RtiRestoresStatusAndPc : Prop :=
  ∀ s : State, Listed Line.rti .rti ∧
    ∃ t, exec .rti s = .next t ∧
      t.status = (s.read (stackAddr (s.sp + 1)) &&& 0xCF) ||| (s.status &&& 0x10) ||| 0x20 ∧
      t.pc = word (s.read (stackAddr (s.sp + 2))) (s.read (stackAddr (s.sp + 3))) ∧ t.sp = s.sp + 3 ∧
      t.a = s.a ∧ t.x = s.x ∧ t.y = s.y ∧ SameBytes s t ∧ Charges 6 s t ∧ TakesHeldIrq t

/-- BRK saves the address past its padding byte and P with B and U set, sets I, and goes to the address held at
0xFFFE, whatever I is; the live B keeps its value (R183; the spec's decisions D12 and D13 and its general knowledge
G6, log 18). -/
def Obligations.BrkEntersThroughTheIrqVector : Prop :=
  ∀ s : State, ∃ t, exec .brk s = .next t ∧ Enters (s.pc + 2) (s.status ||| 0x30) 0xFFFE s t ∧ Charges 7 s t

/-- An instruction trap and its return: the RTI after a BRK leaves pc two past the BRK, sp as it was and P as it was
(R183, R241; the spec's decision D12 and its general knowledge G6, log 18). -/
def Obligations.BrkThenRtiComesBack : Prop :=
  ∀ s : State, Sound s →
    ∃ t u, exec .brk s = .next t ∧ exec .rti t = .next u ∧ u.pc = s.pc + 2 ∧ u.sp = s.sp ∧ u.status = s.status

/-! ## Stack, flags, transfers, NOP -/

/-- PHA pushes a, and PHP pushes P with bits 4 and 5 set; the registers and the live P keep their values (R190,
R191). -/
def Obligations.PushesWriteThenDecrement : Prop :=
  ∀ (s : State) (i : Instr) (v : Byte) (line : List Form),
    (i, v, line) ∈ [(Instr.pha, s.a, Line.pha), (.php, s.status ||| 0x30, Line.php)] →
    Listed line i ∧ (stackAddr s.sp).toNat = 0x100 + s.sp.toNat ∧
    ∃ t, exec i s = .next t ∧ Stores (stackAddr s.sp) v s t ∧ t.sp = s.sp - 1 ∧ t.a = s.a ∧ t.x = s.x ∧
      t.y = s.y ∧ SameFlags [] s t ∧ Retires 1 3 s t

/-- PLA pulls a and sets N and Z; PLP pulls P, but B keeps its live value and U is 1, and where it clears I a held IRQ
is taken at the next step boundary; PHP and then PLP leave P and sp as they were (R192, R193). The clause about the
IRQ rests on the model's `irq` field (log 8), the spec's decisions D11 and D12 and general knowledge G5 (log 18), and
its decision D15 of no delay, unsafe for this claim (log 20); the last clause is derived in R193. -/
def Obligations.PullsIncrementThenRead : Prop :=
  ∀ s : State,
    let v := s.read (stackAddr (s.sp + 1))
    Listed Line.pla .pla ∧ Listed Line.plp .plp ∧
    (∃ t, exec .pla s = .next t ∧ t.a = v ∧ NZ v t ∧ SameFlags [.n, .z] s t ∧ t.sp = s.sp + 1 ∧ t.x = s.x ∧
      t.y = s.y ∧ SameBytes s t ∧ Retires 1 4 s t) ∧
    (∃ t, exec .plp s = .next t ∧ t.status = (v &&& 0xCF) ||| (s.status &&& 0x10) ||| 0x20 ∧ t.sp = s.sp + 1 ∧
      t.a = s.a ∧ t.x = s.x ∧ t.y = s.y ∧ SameBytes s t ∧ Retires 1 4 s t ∧ TakesHeldIrq t) ∧
    (Sound s → ∃ t u, exec .php s = .next t ∧ exec .plp t = .next u ∧ u.status = s.status ∧ u.sp = s.sp)

/-- The seven flag instructions write their one flag, cost 2 cycles and change nothing else (R194-R200; the mnemonics
are the spec's general knowledge G3, log 18). -/
def Obligations.FlagInstructionsWriteOneFlag : Prop :=
  ∀ (s : State) (i : Instr) (f : Flag) (value : Bool),
    (i, f, value) ∈ [(Instr.clc, Flag.c, false), (.sec, .c, true), (.cli, .i, false), (.sei, .i, true),
      (.cld, .d, false), (.sed, .d, true), (.clv, .v, false)] →
    ∃ t, exec i s = .next t ∧ t.flag f = value ∧ SameFlags [f] s t ∧ t.a = s.a ∧ t.x = s.x ∧ t.y = s.y ∧
      t.sp = s.sp ∧ SameBytes s t ∧ Retires 1 2 s t

/-- The six transfers copy one register to another; all but TXS set N and Z (R201-R206). -/
def Obligations.TransfersCopyRegister : Prop :=
  ∀ s : State,
    Listed Line.tax .tax ∧ Listed Line.tay .tay ∧ Listed Line.txa .txa ∧ Listed Line.tya .tya ∧
    Listed Line.tsx .tsx ∧ Listed Line.txs .txs ∧
    (∃ t, exec .tax s = .next t ∧ t.x = s.a ∧ NZ s.a t ∧ SameFlags [.n, .z] s t ∧ t.a = s.a ∧ t.y = s.y ∧
      t.sp = s.sp ∧ SameBytes s t ∧ Retires 1 2 s t) ∧
    (∃ t, exec .tay s = .next t ∧ t.y = s.a ∧ NZ s.a t ∧ SameFlags [.n, .z] s t ∧ t.a = s.a ∧ t.x = s.x ∧
      t.sp = s.sp ∧ SameBytes s t ∧ Retires 1 2 s t) ∧
    (∃ t, exec .txa s = .next t ∧ t.a = s.x ∧ NZ s.x t ∧ SameFlags [.n, .z] s t ∧ t.x = s.x ∧ t.y = s.y ∧
      t.sp = s.sp ∧ SameBytes s t ∧ Retires 1 2 s t) ∧
    (∃ t, exec .tya s = .next t ∧ t.a = s.y ∧ NZ s.y t ∧ SameFlags [.n, .z] s t ∧ t.x = s.x ∧ t.y = s.y ∧
      t.sp = s.sp ∧ SameBytes s t ∧ Retires 1 2 s t) ∧
    (∃ t, exec .tsx s = .next t ∧ t.x = s.sp ∧ NZ s.sp t ∧ SameFlags [.n, .z] s t ∧ t.a = s.a ∧ t.y = s.y ∧
      t.sp = s.sp ∧ SameBytes s t ∧ Retires 1 2 s t) ∧
    (∃ t, exec .txs s = .next t ∧ t.sp = s.x ∧ SameFlags [] s t ∧ t.a = s.a ∧ t.x = s.x ∧ t.y = s.y ∧
      SameBytes s t ∧ Retires 1 2 s t)

/-- NOP and the unofficial NOPs change pc and the counter alone; an unofficial one consumes its operand bytes and pays
for a page crossing (R207, R211; the spec's general knowledge G3 and G8, log 18). -/
def Obligations.NopsChangeOnlyPcAndCycles : Prop :=
  ∀ (s : State) (op : Byte) (arg : NopArg),
    exec .nop s = .next { s with pc := s.pc + 1, cycles := s.cycles + 2 } ∧
    exec (.nopU op arg) s = .next { s with
      pc := s.pc + BitVec.ofNat 16 (Instr.nopU op arg).length
      cycles := s.cycles + BitVec.ofNat 64 (nopCost arg s) }

/-! ## Unofficial instructions -/

/-- *LAX loads one Byte into a and x and sets N and Z (R212); *SAX stores `a & x` and changes no register and no flag
(R213; the spec's general knowledge G8 and decision D4, log 18). -/
def Obligations.LaxLoadsAndSaxStores : Prop :=
  ∀ (m : Addr) (s : State),
    (∃ t, exec (.laxU m) s = .next t ∧ t.a = memValue m s ∧ t.x = memValue m s ∧ NZ (memValue m s) t ∧
      t.y = s.y ∧ t.sp = s.sp ∧ SameFlags [.n, .z] s t ∧ SameBytes s t ∧
      Retires (Instr.laxU m).length (readCost m s) s t) ∧
    ∃ t, exec (.saxU m) s = .next t ∧ Stores (effectiveAddress m s) (s.a &&& s.x) s t ∧ t.a = s.a ∧ t.x = s.x ∧
      t.y = s.y ∧ t.sp = s.sp ∧ SameFlags [] s t ∧ Retires (Instr.saxU m).length (storeBase m) s t

/-- *DCP decrements memory and compares a with the result (R215); *ISB increments memory and subtracts the result from
a with the borrow (R216; the spec's general knowledge G8, log 18). -/
def Obligations.DcpComparesAndIsbSubtracts : Prop :=
  ∀ (m : Addr) (s : State),
    (let r := BitVec.ofNat 8 ((memValue m s).toNat + 255)
      ∃ t, exec (.dcpU m) s = .next t ∧ Stores (effectiveAddress m s) r s t ∧
        (t.flag .c = true ↔ r.toNat ≤ s.a.toNat) ∧ (t.flag .z = true ↔ s.a = r) ∧
        (t.flag .n = true ↔ 128 ≤ (s.a.toNat + 256 - r.toNat) % 256) ∧ SameFlags [.n, .z, .c] s t ∧ t.a = s.a ∧
        t.x = s.x ∧ t.y = s.y ∧ t.sp = s.sp ∧ Retires (Instr.dcpU m).length (modifyBase m) s t) ∧
    (let r := BitVec.ofNat 8 ((memValue m s).toNat + 1)
      let borrow := 1 - (s.flag .c).toNat
      let signed := s.a.toInt - r.toInt - (borrow : Int)
      ∃ t, exec (.isbU m) s = .next t ∧ Stores (effectiveAddress m s) r s t ∧
        (t.a.toNat : Int) = ((s.a.toNat : Int) - r.toNat - borrow) % 256 ∧
        (t.flag .c = true ↔ r.toNat + borrow ≤ s.a.toNat) ∧ (t.flag .v = true ↔ signed < -128 ∨ 127 < signed) ∧
        NZ t.a t ∧ SameFlags [.n, .z, .c, .v] s t ∧ t.x = s.x ∧ t.y = s.y ∧ t.sp = s.sp ∧
        Retires (Instr.isbU m).length (modifyBase m) s t)

/-- *SLO, *RLA and *SRE shift or rotate memory, write it back, put the bit shifted out in C and combine the result
with a (R217-R219; the spec's general knowledge G8, log 18). -/
def Obligations.ShiftedMemoryCombinesWithA : Prop :=
  ∀ (m : Addr) (s : State) (i : Instr) (r : Nat) (carry : Bool) (f : Bool → Bool → Bool),
    let v := memValue m s
    (i = .sloU m ∧ r = 2 * v.toNat % 256 ∧ carry = decide (128 ≤ v.toNat) ∧ f = Bool.or) ∨
    (i = .rlaU m ∧ r = (2 * v.toNat + (s.flag .c).toNat) % 256 ∧ carry = decide (128 ≤ v.toNat) ∧ f = Bool.and) ∨
    (i = .sreU m ∧ r = v.toNat / 2 ∧ carry = decide (v.toNat % 2 = 1) ∧ f = Bool.xor) →
    ∃ t, exec i s = .next t ∧ Stores (effectiveAddress m s) (BitVec.ofNat 8 r) s t ∧
      (∀ k, k < 8 → t.a.getLsbD k = f (s.a.getLsbD k) ((BitVec.ofNat 8 r).getLsbD k)) ∧ NZ t.a t ∧
      t.flag .c = carry ∧ SameFlags [.n, .z, .c] s t ∧ t.x = s.x ∧ t.y = s.y ∧ t.sp = s.sp ∧
      Retires i.length (modifyBase m) s t

/-- *RRA rotates memory right, writes it back, and adds it to a with the carry the rotate produced (R220; the spec's
general knowledge G8, log 18). -/
def Obligations.RraAddsRotatedMemory : Prop :=
  ∀ (m : Addr) (s : State),
    let v := memValue m s
    let r := BitVec.ofNat 8 (v.toNat / 2 + 128 * (s.flag .c).toNat)
    let sum := s.a.toNat + r.toNat + v.toNat % 2
    let signed := s.a.toInt + r.toInt + ((v.toNat % 2 : Nat) : Int)
    ∃ t, exec (.rraU m) s = .next t ∧ Stores (effectiveAddress m s) r s t ∧ t.a.toNat = sum % 256 ∧
      (t.flag .c = true ↔ 255 < sum) ∧ (t.flag .v = true ↔ signed < -128 ∨ 127 < signed) ∧ NZ t.a t ∧
      SameFlags [.n, .z, .c, .v] s t ∧ t.x = s.x ∧ t.y = s.y ∧ t.sp = s.sp ∧
      Retires (Instr.rraU m).length (modifyBase m) s t
end

