-- ==== Sys2Proof/Laws/State.lean ====
section
/-! SUPPORT. One lemma per field per named update of State, true by unfolding the update once, so that no later proof
unfolds a record update. -/

namespace Sys2Proof.Machine

variable (s : State)

@[simp] theorem State.setStatus_a (v : Byte) : (s.setStatus v).a = s.a := rfl
@[simp] theorem State.setStatus_x (v : Byte) : (s.setStatus v).x = s.x := rfl
@[simp] theorem State.setStatus_y (v : Byte) : (s.setStatus v).y = s.y := rfl
@[simp] theorem State.setStatus_sp (v : Byte) : (s.setStatus v).sp = s.sp := rfl
@[simp] theorem State.setStatus_pc (v : Byte) : (s.setStatus v).pc = s.pc := rfl
@[simp] theorem State.setStatus_p (v : Byte) : (s.setStatus v).p = v ||| 0x20#8 := rfl
@[simp] theorem State.setStatus_cycles (v : Byte) : (s.setStatus v).cycles = s.cycles := rfl
@[simp] theorem State.setStatus_halted (v : Byte) : (s.setStatus v).halted = s.halted := rfl
@[simp] theorem State.setStatus_nmiPending (v : Byte) : (s.setStatus v).nmiPending = s.nmiPending := rfl
@[simp] theorem State.setStatus_irq (v : Byte) : (s.setStatus v).irq = s.irq := rfl
@[simp] theorem State.setStatus_breakpoint (v : Byte) : (s.setStatus v).breakpoint = s.breakpoint := rfl
@[simp] theorem State.setStatus_ram (v : Byte) : (s.setStatus v).ram = s.ram := rfl
@[simp] theorem State.setStatus_cart (v : Byte) : (s.setStatus v).cart = s.cart := rfl
@[simp] theorem State.setStatus_params (v : Byte) : (s.setStatus v).params = s.params := rfl

@[simp] theorem State.setFlag_a (f : Flag) (b : Bool) : (s.setFlag f b).a = s.a := rfl
@[simp] theorem State.setFlag_x (f : Flag) (b : Bool) : (s.setFlag f b).x = s.x := rfl
@[simp] theorem State.setFlag_y (f : Flag) (b : Bool) : (s.setFlag f b).y = s.y := rfl
@[simp] theorem State.setFlag_sp (f : Flag) (b : Bool) : (s.setFlag f b).sp = s.sp := rfl
@[simp] theorem State.setFlag_pc (f : Flag) (b : Bool) : (s.setFlag f b).pc = s.pc := rfl
@[simp] theorem State.setFlag_p (f : Flag) (b : Bool) : (s.setFlag f b).p = putFlag s.p f b := rfl
@[simp] theorem State.setFlag_cycles (f : Flag) (b : Bool) : (s.setFlag f b).cycles = s.cycles := rfl
@[simp] theorem State.setFlag_halted (f : Flag) (b : Bool) : (s.setFlag f b).halted = s.halted := rfl
@[simp] theorem State.setFlag_nmiPending (f : Flag) (b : Bool) : (s.setFlag f b).nmiPending = s.nmiPending := rfl
@[simp] theorem State.setFlag_irq (f : Flag) (b : Bool) : (s.setFlag f b).irq = s.irq := rfl
@[simp] theorem State.setFlag_breakpoint (f : Flag) (b : Bool) : (s.setFlag f b).breakpoint = s.breakpoint := rfl
@[simp] theorem State.setFlag_ram (f : Flag) (b : Bool) : (s.setFlag f b).ram = s.ram := rfl
@[simp] theorem State.setFlag_cart (f : Flag) (b : Bool) : (s.setFlag f b).cart = s.cart := rfl
@[simp] theorem State.setFlag_params (f : Flag) (b : Bool) : (s.setFlag f b).params = s.params := rfl

@[simp] theorem State.setNZ_a (v : Byte) : (s.setNZ v).a = s.a := rfl
@[simp] theorem State.setNZ_x (v : Byte) : (s.setNZ v).x = s.x := rfl
@[simp] theorem State.setNZ_y (v : Byte) : (s.setNZ v).y = s.y := rfl
@[simp] theorem State.setNZ_sp (v : Byte) : (s.setNZ v).sp = s.sp := rfl
@[simp] theorem State.setNZ_pc (v : Byte) : (s.setNZ v).pc = s.pc := rfl
@[simp] theorem State.setNZ_cycles (v : Byte) : (s.setNZ v).cycles = s.cycles := rfl
@[simp] theorem State.setNZ_halted (v : Byte) : (s.setNZ v).halted = s.halted := rfl
@[simp] theorem State.setNZ_nmiPending (v : Byte) : (s.setNZ v).nmiPending = s.nmiPending := rfl
@[simp] theorem State.setNZ_irq (v : Byte) : (s.setNZ v).irq = s.irq := rfl
@[simp] theorem State.setNZ_breakpoint (v : Byte) : (s.setNZ v).breakpoint = s.breakpoint := rfl
@[simp] theorem State.setNZ_ram (v : Byte) : (s.setNZ v).ram = s.ram := rfl
@[simp] theorem State.setNZ_cart (v : Byte) : (s.setNZ v).cart = s.cart := rfl
@[simp] theorem State.setNZ_params (v : Byte) : (s.setNZ v).params = s.params := rfl

@[simp] theorem State.pullStatus_a (v : Byte) : (s.pullStatus v).a = s.a := rfl
@[simp] theorem State.pullStatus_x (v : Byte) : (s.pullStatus v).x = s.x := rfl
@[simp] theorem State.pullStatus_y (v : Byte) : (s.pullStatus v).y = s.y := rfl
@[simp] theorem State.pullStatus_sp (v : Byte) : (s.pullStatus v).sp = s.sp := rfl
@[simp] theorem State.pullStatus_pc (v : Byte) : (s.pullStatus v).pc = s.pc := rfl
@[simp] theorem State.pullStatus_p (v : Byte) : (s.pullStatus v).p = ((v &&& 0xCF#8) ||| (s.status &&& 0x10#8) ||| 0x20#8) ||| 0x20#8 := rfl
@[simp] theorem State.pullStatus_cycles (v : Byte) : (s.pullStatus v).cycles = s.cycles := rfl
@[simp] theorem State.pullStatus_halted (v : Byte) : (s.pullStatus v).halted = s.halted := rfl
@[simp] theorem State.pullStatus_nmiPending (v : Byte) : (s.pullStatus v).nmiPending = s.nmiPending := rfl
@[simp] theorem State.pullStatus_irq (v : Byte) : (s.pullStatus v).irq = s.irq := rfl
@[simp] theorem State.pullStatus_breakpoint (v : Byte) : (s.pullStatus v).breakpoint = s.breakpoint := rfl
@[simp] theorem State.pullStatus_ram (v : Byte) : (s.pullStatus v).ram = s.ram := rfl
@[simp] theorem State.pullStatus_cart (v : Byte) : (s.pullStatus v).cart = s.cart := rfl
@[simp] theorem State.pullStatus_params (v : Byte) : (s.pullStatus v).params = s.params := rfl

@[simp] theorem State.addWithCarry_a (m : Byte) : (s.addWithCarry m).a = (addBytes s.a m (s.flag .c)).result := rfl
@[simp] theorem State.addWithCarry_x (m : Byte) : (s.addWithCarry m).x = s.x := rfl
@[simp] theorem State.addWithCarry_y (m : Byte) : (s.addWithCarry m).y = s.y := rfl
@[simp] theorem State.addWithCarry_sp (m : Byte) : (s.addWithCarry m).sp = s.sp := rfl
@[simp] theorem State.addWithCarry_pc (m : Byte) : (s.addWithCarry m).pc = s.pc := rfl
@[simp] theorem State.addWithCarry_cycles (m : Byte) : (s.addWithCarry m).cycles = s.cycles := rfl
@[simp] theorem State.addWithCarry_halted (m : Byte) : (s.addWithCarry m).halted = s.halted := rfl
@[simp] theorem State.addWithCarry_nmiPending (m : Byte) : (s.addWithCarry m).nmiPending = s.nmiPending := rfl
@[simp] theorem State.addWithCarry_irq (m : Byte) : (s.addWithCarry m).irq = s.irq := rfl
@[simp] theorem State.addWithCarry_breakpoint (m : Byte) : (s.addWithCarry m).breakpoint = s.breakpoint := rfl
@[simp] theorem State.addWithCarry_ram (m : Byte) : (s.addWithCarry m).ram = s.ram := rfl
@[simp] theorem State.addWithCarry_cart (m : Byte) : (s.addWithCarry m).cart = s.cart := rfl
@[simp] theorem State.addWithCarry_params (m : Byte) : (s.addWithCarry m).params = s.params := rfl

@[simp] theorem State.compare_a (r m : Byte) : (s.compare r m).a = s.a := rfl
@[simp] theorem State.compare_x (r m : Byte) : (s.compare r m).x = s.x := rfl
@[simp] theorem State.compare_y (r m : Byte) : (s.compare r m).y = s.y := rfl
@[simp] theorem State.compare_sp (r m : Byte) : (s.compare r m).sp = s.sp := rfl
@[simp] theorem State.compare_pc (r m : Byte) : (s.compare r m).pc = s.pc := rfl
@[simp] theorem State.compare_cycles (r m : Byte) : (s.compare r m).cycles = s.cycles := rfl
@[simp] theorem State.compare_halted (r m : Byte) : (s.compare r m).halted = s.halted := rfl
@[simp] theorem State.compare_nmiPending (r m : Byte) : (s.compare r m).nmiPending = s.nmiPending := rfl
@[simp] theorem State.compare_irq (r m : Byte) : (s.compare r m).irq = s.irq := rfl
@[simp] theorem State.compare_breakpoint (r m : Byte) : (s.compare r m).breakpoint = s.breakpoint := rfl
@[simp] theorem State.compare_ram (r m : Byte) : (s.compare r m).ram = s.ram := rfl
@[simp] theorem State.compare_cart (r m : Byte) : (s.compare r m).cart = s.cart := rfl
@[simp] theorem State.compare_params (r m : Byte) : (s.compare r m).params = s.params := rfl

@[simp] theorem State.testBits_a (m : Byte) : (s.testBits m).a = s.a := rfl
@[simp] theorem State.testBits_x (m : Byte) : (s.testBits m).x = s.x := rfl
@[simp] theorem State.testBits_y (m : Byte) : (s.testBits m).y = s.y := rfl
@[simp] theorem State.testBits_sp (m : Byte) : (s.testBits m).sp = s.sp := rfl
@[simp] theorem State.testBits_pc (m : Byte) : (s.testBits m).pc = s.pc := rfl
@[simp] theorem State.testBits_cycles (m : Byte) : (s.testBits m).cycles = s.cycles := rfl
@[simp] theorem State.testBits_halted (m : Byte) : (s.testBits m).halted = s.halted := rfl
@[simp] theorem State.testBits_nmiPending (m : Byte) : (s.testBits m).nmiPending = s.nmiPending := rfl
@[simp] theorem State.testBits_irq (m : Byte) : (s.testBits m).irq = s.irq := rfl
@[simp] theorem State.testBits_breakpoint (m : Byte) : (s.testBits m).breakpoint = s.breakpoint := rfl
@[simp] theorem State.testBits_ram (m : Byte) : (s.testBits m).ram = s.ram := rfl
@[simp] theorem State.testBits_cart (m : Byte) : (s.testBits m).cart = s.cart := rfl
@[simp] theorem State.testBits_params (m : Byte) : (s.testBits m).params = s.params := rfl

@[simp] theorem State.advance_a (n : Nat) : (s.advance n).a = s.a := rfl
@[simp] theorem State.advance_x (n : Nat) : (s.advance n).x = s.x := rfl
@[simp] theorem State.advance_y (n : Nat) : (s.advance n).y = s.y := rfl
@[simp] theorem State.advance_sp (n : Nat) : (s.advance n).sp = s.sp := rfl
@[simp] theorem State.advance_pc (n : Nat) : (s.advance n).pc = s.pc + BitVec.ofNat 16 n := rfl
@[simp] theorem State.advance_p (n : Nat) : (s.advance n).p = s.p := rfl
@[simp] theorem State.advance_cycles (n : Nat) : (s.advance n).cycles = s.cycles := rfl
@[simp] theorem State.advance_halted (n : Nat) : (s.advance n).halted = s.halted := rfl
@[simp] theorem State.advance_nmiPending (n : Nat) : (s.advance n).nmiPending = s.nmiPending := rfl
@[simp] theorem State.advance_irq (n : Nat) : (s.advance n).irq = s.irq := rfl
@[simp] theorem State.advance_breakpoint (n : Nat) : (s.advance n).breakpoint = s.breakpoint := rfl
@[simp] theorem State.advance_ram (n : Nat) : (s.advance n).ram = s.ram := rfl
@[simp] theorem State.advance_cart (n : Nat) : (s.advance n).cart = s.cart := rfl
@[simp] theorem State.advance_params (n : Nat) : (s.advance n).params = s.params := rfl

@[simp] theorem State.charge_a (n : Nat) : (s.charge n).a = s.a := rfl
@[simp] theorem State.charge_x (n : Nat) : (s.charge n).x = s.x := rfl
@[simp] theorem State.charge_y (n : Nat) : (s.charge n).y = s.y := rfl
@[simp] theorem State.charge_sp (n : Nat) : (s.charge n).sp = s.sp := rfl
@[simp] theorem State.charge_pc (n : Nat) : (s.charge n).pc = s.pc := rfl
@[simp] theorem State.charge_p (n : Nat) : (s.charge n).p = s.p := rfl
@[simp] theorem State.charge_cycles (n : Nat) : (s.charge n).cycles = s.cycles + BitVec.ofNat 64 n := rfl
@[simp] theorem State.charge_halted (n : Nat) : (s.charge n).halted = s.halted := rfl
@[simp] theorem State.charge_nmiPending (n : Nat) : (s.charge n).nmiPending = s.nmiPending := rfl
@[simp] theorem State.charge_irq (n : Nat) : (s.charge n).irq = s.irq := rfl
@[simp] theorem State.charge_breakpoint (n : Nat) : (s.charge n).breakpoint = s.breakpoint := rfl
@[simp] theorem State.charge_ram (n : Nat) : (s.charge n).ram = s.ram := rfl
@[simp] theorem State.charge_cart (n : Nat) : (s.charge n).cart = s.cart := rfl
@[simp] theorem State.charge_params (n : Nat) : (s.charge n).params = s.params := rfl

@[simp] theorem State.loadA_a (v : Byte) : (s.loadA v).a = v := rfl
@[simp] theorem State.loadA_x (v : Byte) : (s.loadA v).x = s.x := rfl
@[simp] theorem State.loadA_y (v : Byte) : (s.loadA v).y = s.y := rfl
@[simp] theorem State.loadA_sp (v : Byte) : (s.loadA v).sp = s.sp := rfl
@[simp] theorem State.loadA_pc (v : Byte) : (s.loadA v).pc = s.pc := rfl
@[simp] theorem State.loadA_cycles (v : Byte) : (s.loadA v).cycles = s.cycles := rfl
@[simp] theorem State.loadA_halted (v : Byte) : (s.loadA v).halted = s.halted := rfl
@[simp] theorem State.loadA_nmiPending (v : Byte) : (s.loadA v).nmiPending = s.nmiPending := rfl
@[simp] theorem State.loadA_irq (v : Byte) : (s.loadA v).irq = s.irq := rfl
@[simp] theorem State.loadA_breakpoint (v : Byte) : (s.loadA v).breakpoint = s.breakpoint := rfl
@[simp] theorem State.loadA_ram (v : Byte) : (s.loadA v).ram = s.ram := rfl
@[simp] theorem State.loadA_cart (v : Byte) : (s.loadA v).cart = s.cart := rfl
@[simp] theorem State.loadA_params (v : Byte) : (s.loadA v).params = s.params := rfl

@[simp] theorem State.loadX_a (v : Byte) : (s.loadX v).a = s.a := rfl
@[simp] theorem State.loadX_x (v : Byte) : (s.loadX v).x = v := rfl
@[simp] theorem State.loadX_y (v : Byte) : (s.loadX v).y = s.y := rfl
@[simp] theorem State.loadX_sp (v : Byte) : (s.loadX v).sp = s.sp := rfl
@[simp] theorem State.loadX_pc (v : Byte) : (s.loadX v).pc = s.pc := rfl
@[simp] theorem State.loadX_cycles (v : Byte) : (s.loadX v).cycles = s.cycles := rfl
@[simp] theorem State.loadX_halted (v : Byte) : (s.loadX v).halted = s.halted := rfl
@[simp] theorem State.loadX_nmiPending (v : Byte) : (s.loadX v).nmiPending = s.nmiPending := rfl
@[simp] theorem State.loadX_irq (v : Byte) : (s.loadX v).irq = s.irq := rfl
@[simp] theorem State.loadX_breakpoint (v : Byte) : (s.loadX v).breakpoint = s.breakpoint := rfl
@[simp] theorem State.loadX_ram (v : Byte) : (s.loadX v).ram = s.ram := rfl
@[simp] theorem State.loadX_cart (v : Byte) : (s.loadX v).cart = s.cart := rfl
@[simp] theorem State.loadX_params (v : Byte) : (s.loadX v).params = s.params := rfl

@[simp] theorem State.loadY_a (v : Byte) : (s.loadY v).a = s.a := rfl
@[simp] theorem State.loadY_x (v : Byte) : (s.loadY v).x = s.x := rfl
@[simp] theorem State.loadY_y (v : Byte) : (s.loadY v).y = v := rfl
@[simp] theorem State.loadY_sp (v : Byte) : (s.loadY v).sp = s.sp := rfl
@[simp] theorem State.loadY_pc (v : Byte) : (s.loadY v).pc = s.pc := rfl
@[simp] theorem State.loadY_cycles (v : Byte) : (s.loadY v).cycles = s.cycles := rfl
@[simp] theorem State.loadY_halted (v : Byte) : (s.loadY v).halted = s.halted := rfl
@[simp] theorem State.loadY_nmiPending (v : Byte) : (s.loadY v).nmiPending = s.nmiPending := rfl
@[simp] theorem State.loadY_irq (v : Byte) : (s.loadY v).irq = s.irq := rfl
@[simp] theorem State.loadY_breakpoint (v : Byte) : (s.loadY v).breakpoint = s.breakpoint := rfl
@[simp] theorem State.loadY_ram (v : Byte) : (s.loadY v).ram = s.ram := rfl
@[simp] theorem State.loadY_cart (v : Byte) : (s.loadY v).cart = s.cart := rfl
@[simp] theorem State.loadY_params (v : Byte) : (s.loadY v).params = s.params := rfl

@[simp] theorem State.jump_a (target : Word) : (s.jump target).a = s.a := rfl
@[simp] theorem State.jump_x (target : Word) : (s.jump target).x = s.x := rfl
@[simp] theorem State.jump_y (target : Word) : (s.jump target).y = s.y := rfl
@[simp] theorem State.jump_sp (target : Word) : (s.jump target).sp = s.sp := rfl
@[simp] theorem State.jump_pc (target : Word) : (s.jump target).pc = target := rfl
@[simp] theorem State.jump_p (target : Word) : (s.jump target).p = s.p := rfl
@[simp] theorem State.jump_cycles (target : Word) : (s.jump target).cycles = s.cycles := rfl
@[simp] theorem State.jump_halted (target : Word) : (s.jump target).halted = s.halted := rfl
@[simp] theorem State.jump_nmiPending (target : Word) : (s.jump target).nmiPending = s.nmiPending := rfl
@[simp] theorem State.jump_irq (target : Word) : (s.jump target).irq = s.irq := rfl
@[simp] theorem State.jump_breakpoint (target : Word) : (s.jump target).breakpoint = s.breakpoint := rfl
@[simp] theorem State.jump_ram (target : Word) : (s.jump target).ram = s.ram := rfl
@[simp] theorem State.jump_cart (target : Word) : (s.jump target).cart = s.cart := rfl
@[simp] theorem State.jump_params (target : Word) : (s.jump target).params = s.params := rfl

@[simp] theorem State.popped_a (n : Nat) : (s.popped n).a = s.a := rfl
@[simp] theorem State.popped_x (n : Nat) : (s.popped n).x = s.x := rfl
@[simp] theorem State.popped_y (n : Nat) : (s.popped n).y = s.y := rfl
@[simp] theorem State.popped_sp (n : Nat) : (s.popped n).sp = s.sp + BitVec.ofNat 8 n := rfl
@[simp] theorem State.popped_pc (n : Nat) : (s.popped n).pc = s.pc := rfl
@[simp] theorem State.popped_p (n : Nat) : (s.popped n).p = s.p := rfl
@[simp] theorem State.popped_cycles (n : Nat) : (s.popped n).cycles = s.cycles := rfl
@[simp] theorem State.popped_halted (n : Nat) : (s.popped n).halted = s.halted := rfl
@[simp] theorem State.popped_nmiPending (n : Nat) : (s.popped n).nmiPending = s.nmiPending := rfl
@[simp] theorem State.popped_irq (n : Nat) : (s.popped n).irq = s.irq := rfl
@[simp] theorem State.popped_breakpoint (n : Nat) : (s.popped n).breakpoint = s.breakpoint := rfl
@[simp] theorem State.popped_ram (n : Nat) : (s.popped n).ram = s.ram := rfl
@[simp] theorem State.popped_cart (n : Nat) : (s.popped n).cart = s.cart := rfl
@[simp] theorem State.popped_params (n : Nat) : (s.popped n).params = s.params := rfl

@[simp] theorem State.write_a (e : Word) (v : Byte) : (s.write e v).a = s.a := by
  unfold State.write; split <;> [rfl; split <;> rfl]
@[simp] theorem State.write_x (e : Word) (v : Byte) : (s.write e v).x = s.x := by
  unfold State.write; split <;> [rfl; split <;> rfl]
@[simp] theorem State.write_y (e : Word) (v : Byte) : (s.write e v).y = s.y := by
  unfold State.write; split <;> [rfl; split <;> rfl]
@[simp] theorem State.write_sp (e : Word) (v : Byte) : (s.write e v).sp = s.sp := by
  unfold State.write; split <;> [rfl; split <;> rfl]
@[simp] theorem State.write_pc (e : Word) (v : Byte) : (s.write e v).pc = s.pc := by
  unfold State.write; split <;> [rfl; split <;> rfl]
@[simp] theorem State.write_p (e : Word) (v : Byte) : (s.write e v).p = s.p := by
  unfold State.write; split <;> [rfl; split <;> rfl]
@[simp] theorem State.write_cycles (e : Word) (v : Byte) : (s.write e v).cycles = s.cycles := by
  unfold State.write; split <;> [rfl; split <;> rfl]
@[simp] theorem State.write_halted (e : Word) (v : Byte) : (s.write e v).halted = s.halted := by
  unfold State.write; split <;> [rfl; split <;> rfl]
@[simp] theorem State.write_nmiPending (e : Word) (v : Byte) : (s.write e v).nmiPending = s.nmiPending := by
  unfold State.write; split <;> [rfl; split <;> rfl]
@[simp] theorem State.write_irq (e : Word) (v : Byte) : (s.write e v).irq = s.irq := by
  unfold State.write; split <;> [rfl; split <;> rfl]
@[simp] theorem State.write_breakpoint (e : Word) (v : Byte) : (s.write e v).breakpoint = s.breakpoint := by
  unfold State.write; split <;> [rfl; split <;> rfl]
@[simp] theorem State.write_params (e : Word) (v : Byte) : (s.write e v).params = s.params := by
  unfold State.write; split <;> [rfl; split <;> rfl]

theorem State.write_ram (e : Word) (v : Byte) :
    (s.write e v).ram = if e < 0x2000#16 then Memory.set s.ram (ramIndex e) v else s.ram := by
  unfold State.write; split <;> [rfl; split <;> rfl]

/-- A write hands its Byte to the cartridge from 0x4020 on (R41, R50). -/
theorem State.write_cart (e : Word) (v : Byte) :
    (s.write e v).cart = if e < 0x4020#16 then s.cart else s.cart.write e v := by
  unfold State.write
  split
  · next h => rw [if_pos (by bv_omega)]
  · split <;> rfl

/-- A stack address is in RAM. -/
@[simp] theorem stackAddr_in_ram (sp : Byte) : stackAddr sp < 0x2000#16 := by revert sp; decide

/-- A write into RAM or a stub window leaves the cartridge as it was. -/
theorem State.write_cart_below {e : Word} (v : Byte) (h : e < 0x4020#16) : (s.write e v).cart = s.cart := by
  rw [State.write_cart, if_pos h]

/-- A write to the stack page leaves the cartridge as it was. -/
@[simp] theorem State.write_cart_stack (sp v : Byte) : (s.write (stackAddr sp) v).cart = s.cart :=
  s.write_cart_below v (by have := stackAddr_in_ram sp; bv_omega)

@[simp] theorem State.push_a (v : Byte) : (s.push v).a = s.a := by simp [State.push]
@[simp] theorem State.push_x (v : Byte) : (s.push v).x = s.x := by simp [State.push]
@[simp] theorem State.push_y (v : Byte) : (s.push v).y = s.y := by simp [State.push]
@[simp] theorem State.push_sp (v : Byte) : (s.push v).sp = s.sp - 1 := by simp [State.push]
@[simp] theorem State.push_pc (v : Byte) : (s.push v).pc = s.pc := by simp [State.push]
@[simp] theorem State.push_p (v : Byte) : (s.push v).p = s.p := by simp [State.push]
@[simp] theorem State.push_cycles (v : Byte) : (s.push v).cycles = s.cycles := by simp [State.push]
@[simp] theorem State.push_halted (v : Byte) : (s.push v).halted = s.halted := by simp [State.push]
@[simp] theorem State.push_nmiPending (v : Byte) : (s.push v).nmiPending = s.nmiPending := by simp [State.push]
@[simp] theorem State.push_irq (v : Byte) : (s.push v).irq = s.irq := by simp [State.push]
@[simp] theorem State.push_breakpoint (v : Byte) : (s.push v).breakpoint = s.breakpoint := by simp [State.push]
@[simp] theorem State.push_cart (v : Byte) : (s.push v).cart = s.cart := by simp [State.push]
@[simp] theorem State.push_params (v : Byte) : (s.push v).params = s.params := by simp [State.push]

@[simp] theorem State.pushWord_a (w : Word) : (s.pushWord w).a = s.a := by simp [State.pushWord]
@[simp] theorem State.pushWord_x (w : Word) : (s.pushWord w).x = s.x := by simp [State.pushWord]
@[simp] theorem State.pushWord_y (w : Word) : (s.pushWord w).y = s.y := by simp [State.pushWord]
@[simp] theorem State.pushWord_sp (w : Word) : (s.pushWord w).sp = s.sp - 2 := by
  have h : ∀ b : Byte, b - 1 - 1 = b - 2 := by decide
  exact (by simp [State.pushWord] : (s.pushWord w).sp = s.sp - 1 - 1).trans (h s.sp)
@[simp] theorem State.pushWord_pc (w : Word) : (s.pushWord w).pc = s.pc := by simp [State.pushWord]
@[simp] theorem State.pushWord_p (w : Word) : (s.pushWord w).p = s.p := by simp [State.pushWord]
@[simp] theorem State.pushWord_cycles (w : Word) : (s.pushWord w).cycles = s.cycles := by simp [State.pushWord]
@[simp] theorem State.pushWord_halted (w : Word) : (s.pushWord w).halted = s.halted := by simp [State.pushWord]
@[simp] theorem State.pushWord_nmiPending (w : Word) : (s.pushWord w).nmiPending = s.nmiPending := by simp [State.pushWord]
@[simp] theorem State.pushWord_irq (w : Word) : (s.pushWord w).irq = s.irq := by simp [State.pushWord]
@[simp] theorem State.pushWord_breakpoint (w : Word) : (s.pushWord w).breakpoint = s.breakpoint := by simp [State.pushWord]
@[simp] theorem State.pushWord_cart (w : Word) : (s.pushWord w).cart = s.cart := by simp [State.pushWord]
@[simp] theorem State.pushWord_params (w : Word) : (s.pushWord w).params = s.params := by simp [State.pushWord]

end Sys2Proof.Machine
end

