-- ==== Sys2Proof/Laws/Flags.lean ====
section
/-! SUPPORT. How the status byte reads after each of the flag operations. -/

namespace Sys2Proof.Machine

variable (s : State)

/-- What a flag of P reads as after P is written: the bit written, but U always reads 1. -/
theorem State.flag_setStatus (v : Byte) (g : Flag) :
    (s.setStatus v).flag g = (decide (g = .u) || v.getLsbD g.bit) := by
  unfold State.flag State.status State.setStatus
  cases g <;> simp [Flag.bit]

/-- A bit of a Byte after `putFlag`. -/
theorem getLsbD_putFlag (v : Byte) (f g : Flag) (b : Bool) :
    (putFlag v f b).getLsbD g.bit = if f = g then b else v.getLsbD g.bit := by
  unfold putFlag Flag.mask
  cases f <;> cases g <;> cases b <;> simp [Flag.bit]

/-- U reads 1 (R26). -/
@[simp] theorem State.flag_u : s.flag .u = true := by simp [State.flag, State.status, Flag.bit]

/-- A flag after `SetFlag` (R28): U always reads 1. -/
@[simp] theorem State.flag_setFlag (f g : Flag) (b : Bool) :
    (s.setFlag f b).flag g = (decide (g = .u) || if f = g then b else s.flag g) := by
  have h : (s.setFlag f b).flag g = ((putFlag s.p f b).getLsbD g.bit || (0x20#8).getLsbD g.bit) := by
    simp [State.flag, State.status]
  rw [h, getLsbD_putFlag]
  cases g <;> cases f <;> simp [State.flag, State.status, Flag.bit]

/-- The flags after `SetNZ` (R27). -/
@[simp] theorem State.flag_setNZ (v : Byte) (g : Flag) :
    (s.setNZ v).flag g = if g = .z then v == 0 else if g = .n then v.getLsbD 7 else s.flag g := by
  unfold State.setNZ
  cases g <;> simp

/-- A flag reads alike in states that hold the same P. -/
theorem State.flag_congr {s t : State} (h : s.p = t.p) (g : Flag) : s.flag g = t.flag g := by
  simp [State.flag, State.status, h]

@[simp] theorem State.flag_advance (n : Nat) (g : Flag) : (s.advance n).flag g = s.flag g := rfl
@[simp] theorem State.flag_charge (n : Nat) (g : Flag) : (s.charge n).flag g = s.flag g := rfl
@[simp] theorem State.flag_jump (w : Word) (g : Flag) : (s.jump w).flag g = s.flag g := rfl
@[simp] theorem State.flag_popped (n : Nat) (g : Flag) : (s.popped n).flag g = s.flag g := rfl
@[simp] theorem State.flag_write (e : Word) (v : Byte) (g : Flag) : (s.write e v).flag g = s.flag g :=
  State.flag_congr (by simp) g
@[simp] theorem State.flag_push (v : Byte) (g : Flag) : (s.push v).flag g = s.flag g :=
  State.flag_congr (by simp) g
@[simp] theorem State.flag_pushWord (w : Word) (g : Flag) : (s.pushWord w).flag g = s.flag g :=
  State.flag_congr (by simp) g

@[simp] theorem State.status_advance (n : Nat) : (s.advance n).status = s.status := rfl
@[simp] theorem State.status_popped (n : Nat) : (s.popped n).status = s.status := rfl

@[simp] theorem State.flag_loadA (v : Byte) (g : Flag) :
    (s.loadA v).flag g = if g = .z then v == 0 else if g = .n then v.getLsbD 7 else s.flag g :=
  State.flag_setNZ { s with a := v } v g
@[simp] theorem State.flag_loadX (v : Byte) (g : Flag) :
    (s.loadX v).flag g = if g = .z then v == 0 else if g = .n then v.getLsbD 7 else s.flag g :=
  State.flag_setNZ { s with x := v } v g
@[simp] theorem State.flag_loadY (v : Byte) (g : Flag) :
    (s.loadY v).flag g = if g = .z then v == 0 else if g = .n then v.getLsbD 7 else s.flag g :=
  State.flag_setNZ { s with y := v } v g

/-- The flags after `AddWithCarry` (R130). -/
@[simp] theorem State.flag_addWithCarry (m : Byte) (g : Flag) :
    (s.addWithCarry m).flag g =
      if g = .z then (addBytes s.a m (s.flag .c)).result == 0
      else if g = .n then (addBytes s.a m (s.flag .c)).result.getLsbD 7
      else if g = .c then (addBytes s.a m (s.flag .c)).carry
      else if g = .v then (addBytes s.a m (s.flag .c)).overflow
      else s.flag g := by
  unfold State.addWithCarry
  simp only [State.flag_setNZ]
  have h (t : State) (r : Byte) : ({ t with a := r } : State).flag g = t.flag g := State.flag_congr rfl g
  rw [h]
  cases g <;> simp

/-- The flags after `Compare` (R131). -/
@[simp] theorem State.flag_compare (r m : Byte) (g : Flag) :
    (s.compare r m).flag g =
      if g = .c then decide (m.toNat ≤ r.toNat)
      else if g = .z then r == m
      else if g = .n then (r - m).getLsbD 7
      else s.flag g := by
  unfold State.compare
  cases g <;> simp

/-- The flags after BIT (R140). -/
@[simp] theorem State.flag_testBits (m : Byte) (g : Flag) :
    (s.testBits m).flag g =
      if g = .z then s.a &&& m == 0
      else if g = .n then m.getLsbD 7
      else if g = .v then m.getLsbD 6
      else s.flag g := by
  unfold State.testBits
  cases g <;> simp

/-- The flags after P is pulled from a byte (R193): B keeps its live value and U reads 1. -/
@[simp] theorem State.flag_pullStatus (v : Byte) (g : Flag) :
    (s.pullStatus v).flag g =
      if g = .b then s.flag .b else if g = .u then true else v.getLsbD g.bit := by
  unfold State.pullStatus
  rw [State.flag_setStatus]
  cases g <;> simp [State.flag, Flag.bit]

/-- Every write of P stores the unused bit as 1 (R26). -/
theorem State.setStatus_stores_u (v : Byte) : (s.setStatus v).p.getLsbD 5 = true := by simp

/-- A flag other than U leaves the stored unused bit as it was. -/
theorem State.setFlag_keeps_u (f : Flag) (b : Bool) (h : f ≠ .u) :
    (s.setFlag f b).p.getLsbD 5 = s.p.getLsbD 5 := by
  have := getLsbD_putFlag s.p f .u b
  simpa [h, Flag.bit] using this

@[simp] theorem State.setNZ_keeps_u (v : Byte) : (s.setNZ v).p.getLsbD 5 = s.p.getLsbD 5 := by
  unfold State.setNZ
  rw [State.setFlag_keeps_u _ _ _ (by decide), State.setFlag_keeps_u _ _ _ (by decide)]

end Sys2Proof.Machine
end

