-- ==== Sys2Proof/Laws/Memory.lean ====
section
/-! SUPPORT. What the operations of a store do: reading after a write, and the canonical form. -/

namespace Sys2Proof.Machine

theorem Memory.get_cons (k j : Nat) (v : Byte) (m : Memory) (hk : k = j → v = Memory.unlisted → Memory.get m j = v) :
    Memory.get (Memory.cons k v m) j = if k = j then v else Memory.get m j := by
  unfold Memory.cons
  by_cases hv : v = Memory.unlisted
  · rw [if_pos hv]
    split
    · exact hk ‹_› hv
    · rfl
  · rw [if_neg hv]; rfl

/-- Below the first index of a canonical list every cell is unlisted. -/
theorem Memory.get_below {m : Memory} {lo size k : Nat} (h : Memory.wfFrom lo size m = true) (hk : k < lo) :
    Memory.get m k = Memory.unlisted := by
  induction m generalizing lo with
  | nil => rfl
  | cons e m ih =>
    obtain ⟨j, b⟩ := e
    simp only [Memory.wfFrom, Bool.and_eq_true, decide_eq_true_eq] at h
    have hj : j ≠ k := by omega
    simp only [Memory.get, if_neg hj]
    exact ih h.2 (by omega)

theorem Memory.wfFrom_mono {m : Memory} {lo lo' size : Nat} (h : Memory.wfFrom lo size m = true) (hl : lo' ≤ lo) :
    Memory.wfFrom lo' size m = true := by
  cases m with
  | nil => rfl
  | cons e m =>
    obtain ⟨j, b⟩ := e
    simp only [Memory.wfFrom, Bool.and_eq_true, decide_eq_true_eq] at h ⊢
    exact ⟨⟨⟨by omega, h.1.1.2⟩, h.1.2⟩, h.2⟩

theorem Memory.wfFrom_cons {m : Memory} {lo size k : Nat} (v : Byte) (h : Memory.wfFrom (k + 1) size m = true)
    (hl : lo ≤ k) (hk : k < size) : Memory.wfFrom lo size (Memory.cons k v m) = true := by
  unfold Memory.cons
  split
  · exact Memory.wfFrom_mono h (by omega)
  · next hv => simp [Memory.wfFrom, hl, hk, hv, h]

theorem Memory.wfFrom_set {m : Memory} {lo size k : Nat} (v : Byte) (h : Memory.wfFrom lo size m = true)
    (hl : lo ≤ k) (hk : k < size) : Memory.wfFrom lo size (Memory.set m k v) = true := by
  induction m generalizing lo with
  | nil => exact Memory.wfFrom_cons v rfl hl hk
  | cons e m ih =>
    obtain ⟨j, b⟩ := e
    have h0 := h
    simp only [Memory.wfFrom, Bool.and_eq_true, decide_eq_true_eq] at h
    unfold Memory.set
    split
    · refine Memory.wfFrom_cons v ?_ hl hk
      simp only [Memory.wfFrom, Bool.and_eq_true, decide_eq_true_eq]
      exact ⟨⟨⟨by omega, h.1.1.2⟩, h.1.2⟩, h.2⟩
    · split
      · subst k; exact Memory.wfFrom_cons v h.2 hl hk
      · simp only [Memory.wfFrom, Bool.and_eq_true, decide_eq_true_eq]
        exact ⟨h.1, ih h.2 (by omega)⟩

/-- A write keeps the canonical form. -/
theorem Memory.wf_set {m : Memory} {size k : Nat} (v : Byte) (h : Memory.wf size m = true) (hk : k < size) :
    Memory.wf size (Memory.set m k v) = true := Memory.wfFrom_set v h (Nat.zero_le k) hk

theorem Memory.get_set_from {m : Memory} {lo size : Nat} (k j : Nat) (v : Byte)
    (h : Memory.wfFrom lo size m = true) : Memory.get (Memory.set m k v) j = if k = j then v else Memory.get m j := by
  induction m generalizing lo with
  | nil => exact Memory.get_cons k j v [] (fun _ hv => hv.symm)
  | cons e m ih =>
    obtain ⟨i, b⟩ := e
    have h0 := h
    simp only [Memory.wfFrom, Bool.and_eq_true, decide_eq_true_eq] at h
    unfold Memory.set
    split
    · next hki =>
      refine Memory.get_cons k j v _ fun hkj hv => ?_
      have : i ≠ j := by omega
      simp only [Memory.get, if_neg this]
      rw [hv]; exact Memory.get_below h.2 (by omega)
    · split
      · subst k
        rw [Memory.get_cons i j v m fun hij hv => by rw [hv]; exact Memory.get_below h.2 (by omega)]
        by_cases hij : i = j <;> simp [Memory.get, hij]
      · simp only [Memory.get]
        rw [ih h.2]
        by_cases hij : i = j
        · subst hij; simp [*]
        · simp [hij]

/-- A read after a write: the cell written holds the value, and every other cell is as before. -/
theorem Memory.get_set {m : Memory} {size : Nat} (k j : Nat) (v : Byte) (h : Memory.wf size m = true) :
    Memory.get (Memory.set m k v) j = if k = j then v else Memory.get m j := Memory.get_set_from k j v h

/-- Another cell after a write, in any list. -/
theorem Memory.get_set_other (m : Memory) (k j : Nat) (v : Byte) (hkj : k ≠ j) :
    Memory.get (Memory.set m k v) j = Memory.get m j := by
  induction m with
  | nil => unfold Memory.set Memory.cons; split <;> simp [Memory.get, hkj]
  | cons e m ih =>
    obtain ⟨i, b⟩ := e
    unfold Memory.set
    split
    · unfold Memory.cons; split <;> simp [Memory.get, hkj]
    · split
      · subst k; unfold Memory.cons; split <;> simp [Memory.get, hkj]
      · simp only [Memory.get, ih]

theorem Memory.wfFrom_ofBytes (bytes : List Byte) (k size : Nat) (h : k + bytes.length ≤ size) :
    Memory.wfFrom k size (Memory.ofBytes k bytes) = true := by
  induction bytes generalizing k with
  | nil => rfl
  | cons v bytes ih =>
    simp only [List.length_cons] at h
    exact Memory.wfFrom_cons v (ih (k + 1) (by omega)) le_rfl (by omega)

/-- Two canonical stores that read alike are equal data. -/
theorem Memory.ext_from {m n : Memory} {lo size size' : Nat} (hm : Memory.wfFrom lo size m = true)
    (hn : Memory.wfFrom lo size' n = true) (h : ∀ k, Memory.get m k = Memory.get n k) : m = n := by
  induction m generalizing lo n with
  | nil =>
    cases n with
    | nil => rfl
    | cons e n =>
      obtain ⟨j, b⟩ := e
      simp only [Memory.wfFrom, Bool.and_eq_true, decide_eq_true_eq] at hn
      have := h j
      simp only [Memory.get, if_true] at this
      exact absurd this.symm hn.1.2
  | cons e m ih =>
    obtain ⟨i, b⟩ := e
    cases n with
    | nil =>
      simp only [Memory.wfFrom, Bool.and_eq_true, decide_eq_true_eq] at hm
      have := h i
      simp only [Memory.get, if_true] at this
      exact absurd this hm.1.2
    | cons e' n =>
      obtain ⟨j, b'⟩ := e'
      simp only [Memory.wfFrom, Bool.and_eq_true, decide_eq_true_eq] at hm hn
      have hij : i = j := by
        rcases Nat.lt_trichotomy i j with hlt | heq | hgt
        · have := h i
          simp only [Memory.get, if_true, if_neg (show j ≠ i by omega)] at this
          rw [Memory.get_below hn.2 (by omega)] at this
          exact absurd this hm.1.2
        · exact heq
        · have := h j
          simp only [Memory.get, if_true, if_neg (show i ≠ j by omega)] at this
          rw [Memory.get_below hm.2 (by omega)] at this
          exact absurd this.symm hn.1.2
      subst hij
      have hb : b = b' := by simpa [Memory.get] using h i
      subst hb
      congr 1
      refine ih hm.2 hn.2 fun k => ?_
      by_cases hk : k < i + 1
      · rw [Memory.get_below hm.2 hk, Memory.get_below hn.2 hk]
      · have := h k
        simpa [Memory.get, show i ≠ k by omega] using this

/-- Equal memories are equal data. -/
theorem Memory.ext_wf {m n : Memory} {size : Nat} (hm : Memory.wf size m = true) (hn : Memory.wf size n = true)
    (h : ∀ k, Memory.get m k = Memory.get n k) : m = n := Memory.ext_from hm hn h

end Sys2Proof.Machine
end

