-- ==== Sys2Proof/Laws/Bus.lean ====
section
/-! SUPPORT. What a bus read sees after each operation, and that no operation breaks a store's canonical form. -/

namespace Sys2Proof.Machine

variable (s : State)

theorem ramIndex_lt (addr : Word) : ramIndex addr < 0x800 := by
  unfold ramIndex
  rw [BitVec.toNat_and]
  exact Nat.lt_of_le_of_lt Nat.and_le_right (by decide)

theorem PrgBanks.prgMask_lt (b : PrgBanks) : b.prgMask.toNat < b.size := by cases b <;> decide

theorem Nrom.prgIndex_lt (c : Nrom) (addr : Word) : c.prgIndex addr < c.banks.size := by
  unfold Nrom.prgIndex
  rw [BitVec.toNat_and]
  exact Nat.lt_of_le_of_lt Nat.and_le_right c.banks.prgMask_lt

/-- A read depends on the RAM and the cartridge alone. -/
theorem State.read_congr {s t : State} (hr : s.ram = t.ram) (hc : s.cart = t.cart) (addr : Word) :
    s.read addr = t.read addr := by
  unfold State.read; rw [hr, hc]

theorem State.readWord_congr {s t : State} (hr : s.ram = t.ram) (hc : s.cart = t.cart) (addr : Word) :
    s.readWord addr = t.readWord addr := by
  simp only [State.readWord, State.read_congr hr hc]

/-- A read outside RAM depends on the cartridge alone. -/
theorem State.read_outside_ram {s t : State} (hc : s.cart = t.cart) {addr : Word} (h : ¬ addr < 0x2000#16) :
    s.read addr = t.read addr := by
  unfold State.read; rw [if_neg h, if_neg h, hc]

@[simp] theorem State.read_advance (n : Nat) (addr : Word) : (s.advance n).read addr = s.read addr := rfl
@[simp] theorem State.read_charge (n : Nat) (addr : Word) : (s.charge n).read addr = s.read addr := rfl
@[simp] theorem State.read_jump (w addr : Word) : (s.jump w).read addr = s.read addr := rfl
@[simp] theorem State.read_popped (n : Nat) (addr : Word) : (s.popped n).read addr = s.read addr := rfl
@[simp] theorem State.read_setStatus (v : Byte) (addr : Word) : (s.setStatus v).read addr = s.read addr := rfl
@[simp] theorem State.read_setFlag (f : Flag) (b : Bool) (addr : Word) :
    (s.setFlag f b).read addr = s.read addr := rfl
@[simp] theorem State.read_setNZ (v : Byte) (addr : Word) : (s.setNZ v).read addr = s.read addr := rfl
@[simp] theorem State.read_pullStatus (v : Byte) (addr : Word) : (s.pullStatus v).read addr = s.read addr := rfl
@[simp] theorem State.read_loadA (v : Byte) (addr : Word) : (s.loadA v).read addr = s.read addr := rfl
@[simp] theorem State.read_loadX (v : Byte) (addr : Word) : (s.loadX v).read addr = s.read addr := rfl
@[simp] theorem State.read_loadY (v : Byte) (addr : Word) : (s.loadY v).read addr = s.read addr := rfl
@[simp] theorem State.read_addWithCarry (m : Byte) (addr : Word) :
    (s.addWithCarry m).read addr = s.read addr := rfl
@[simp] theorem State.read_compare (r m : Byte) (addr : Word) : (s.compare r m).read addr = s.read addr := rfl
@[simp] theorem State.read_testBits (m : Byte) (addr : Word) : (s.testBits m).read addr = s.read addr := rfl

/-- A write of NROM is a no-op (R51). -/
@[simp] theorem Cartridge.write_of_nrom {c : Cartridge} (h : c.isDevice = false) (addr : Word) (v : Byte) :
    c.write addr v = c := by
  cases c <;> [rfl; cases h]

/-- A cartridge in canonical form stays so over a write. -/
theorem Cartridge.wf_write {c : Cartridge} (h : c.wf = true) (addr : Word) (v : Byte) : (c.write addr v).wf = true := by
  cases c <;> exact h

/-- A write to RAM leaves every Byte outside the cell it writes as it was (R41, R42), in any state. -/
theorem State.read_write_ram_other (e addr : Word) (v : Byte) (he : e < 0x2000#16) (h : sameCell e addr = false) :
    (s.write e v).read addr = s.read addr := by
  by_cases ha : addr < 0x2000#16
  · have hk : ramIndex e ≠ ramIndex addr := by simpa [sameCell, he, ha] using h
    unfold State.read State.write
    simp only [he, ha, if_true, Memory.get_set_other _ _ _ _ hk]
  · exact State.read_outside_ram (s.write_cart_below v (by bv_omega)) ha

/-- A write leaves every Byte it does not reach as it was (R41, R42, R50), in any state. -/
theorem State.read_write_other (e addr : Word) (v : Byte) (h : s.writeReaches e addr = false) :
    (s.write e v).read addr = s.read addr := by
  simp only [State.writeReaches, Bool.or_eq_false_iff] at h
  by_cases he : e < 0x2000#16
  · exact s.read_write_ram_other e addr v he h.1
  · by_cases hc : (s.write e v).cart = s.cart
    · exact State.read_congr (by rw [State.write_ram, if_neg he]) hc addr
    · have he' : ¬ e < 0x4020#16 := fun he' => hc (s.write_cart_below v he')
      have hd : s.cart.isDevice = true := by
        cases hd : s.cart.isDevice with
        | true => rfl
        | false => exact absurd (by rw [State.write_cart, if_neg he', Cartridge.write_of_nrom hd]) hc
      have ha : addr < 0x4020#16 := by
        have h2 := h.2
        simp only [hd, Bool.true_and, Bool.and_eq_false_iff, decide_eq_false_iff_not] at h2
        bv_omega
      have hr : (s.write e v).ram = s.ram := by rw [State.write_ram, if_neg he]
      unfold State.read
      rw [hr]
      simp only [ha, if_true]

/-- What a read sees after a write to RAM, where RAM is in canonical form (R41, R42). -/
theorem State.read_write (e addr : Word) (v : Byte) (he : e < 0x2000#16) (hw : Memory.wf 0x800 s.ram = true) :
    (s.write e v).read addr = if sameCell e addr = true then v else s.read addr := by
  split
  · next h =>
    simp only [sameCell, Bool.and_eq_true, decide_eq_true_eq, beq_iff_eq] at h
    unfold State.read State.write
    simp only [h.1.1, h.1.2, if_true]
    rw [Memory.get_set _ _ _ hw, if_pos h.2]
  · next h => exact s.read_write_ram_other e addr v he (by simpa using h)

/-- A write keeps RAM in canonical form. -/
theorem State.write_keeps_ram (e : Word) (v : Byte) (hw : Memory.wf 0x800 s.ram = true) :
    Memory.wf 0x800 (s.write e v).ram = true := by
  rw [State.write_ram]
  split
  · exact Memory.wf_set v hw (ramIndex_lt e)
  · exact hw

theorem State.push_ram (v : Byte) : (s.push v).ram = (s.write (stackAddr s.sp) v).ram := rfl

/-- A push keeps RAM in canonical form. -/
theorem State.push_keeps_ram (v : Byte) (hw : Memory.wf 0x800 s.ram = true) :
    Memory.wf 0x800 (s.push v).ram = true := s.write_keeps_ram (stackAddr s.sp) v hw

theorem State.pushWord_keeps_ram (w : Word) (hw : Memory.wf 0x800 s.ram = true) :
    Memory.wf 0x800 (s.pushWord w).ram = true := State.push_keeps_ram _ _ (State.push_keeps_ram _ _ hw)

@[simp] theorem State.read_push (v : Byte) (addr : Word) :
    (s.push v).read addr = (s.write (stackAddr s.sp) v).read addr := rfl

/-- What a read sees after a Word is pushed (R58), where RAM is in canonical form. -/
theorem State.read_pushWord (w addr : Word) (hw : Memory.wf 0x800 s.ram = true) :
    (s.pushWord w).read addr =
      if sameCell (stackAddr (s.sp - 1)) addr = true then lo w
      else if sameCell (stackAddr s.sp) addr = true then hi w
      else s.read addr := by
  unfold State.pushWord
  rw [State.read_push, State.read_write _ _ _ _ (stackAddr_in_ram _) (s.push_keeps_ram _ hw), State.push_sp,
    State.read_push, State.read_write _ _ _ _ (stackAddr_in_ram _) hw]

/-- Pushing a Word leaves every Byte outside its two cells as it was, in any state. -/
theorem State.read_pushWord_other (w addr : Word) (h : sameCell (stackAddr s.sp) addr = false)
    (h' : sameCell (stackAddr (s.sp - 1)) addr = false) : (s.pushWord w).read addr = s.read addr := by
  unfold State.pushWord
  rw [State.read_push, State.read_write_ram_other _ _ _ _ (stackAddr_in_ram _) (by simpa using h'), State.read_push,
    State.read_write_ram_other _ _ _ _ (stackAddr_in_ram _) h]

/-! ### The stack page (R54, R55) -/

theorem stackAddr_toNat (sp : Byte) : (stackAddr sp).toNat = 0x100 + sp.toNat := by
  have : ∀ b : Byte, (stackAddr b).toNat = 0x100 + b.toNat := by decide
  exact this sp

theorem ramIndex_stackAddr (sp : Byte) : ramIndex (stackAddr sp) = 0x100 + sp.toNat := by
  have : ∀ b : Byte, ramIndex (stackAddr b) = 0x100 + b.toNat := by decide
  exact this sp

/-- Two stack addresses are one cell exactly when the pointers are equal. -/
@[simp] theorem sameCell_stackAddr (p q : Byte) : sameCell (stackAddr p) (stackAddr q) = (p == q) := by
  unfold sameCell
  simp only [stackAddr_in_ram, decide_true, Bool.true_and, ramIndex_stackAddr]
  by_cases h : p = q
  · simp [h]
  · have : p.toNat ≠ q.toNat := fun hn => h (BitVec.eq_of_toNat_eq hn)
    simp [h, this]

theorem vector_not_in_ram : ¬ Config.nmiVector < 0x2000#16 ∧ ¬ Config.irqVector < 0x2000#16 ∧
    ¬ Config.resetVector < 0x2000#16 ∧ ¬ Config.nmiVector + 1 < 0x2000#16 ∧ ¬ Config.irqVector + 1 < 0x2000#16 := by
  decide

/-! ### Taking an exception (R240), returning (R241), failing to decode (R104) -/

/-- Everything the shared entry changes: pc, sp, the I flag and three stack bytes. -/
theorem State.enterVector_spec (r : Word) (pushed : Byte) (vector : Word) :
    let t := s.enterVector r pushed vector
    t.a = s.a ∧ t.x = s.x ∧ t.y = s.y ∧ t.sp = s.sp - 3 ∧ t.cycles = s.cycles ∧ t.halted = s.halted ∧
    t.nmiPending = s.nmiPending ∧ t.irq = s.irq ∧ t.breakpoint = s.breakpoint ∧ t.cart = s.cart ∧
    t.params = s.params ∧ t.ram = ((s.pushWord r).push pushed).ram ∧
    t.pc = ((s.pushWord r).push pushed).readWord vector ∧
    ∀ f, t.flag f = if f = .i then true else s.flag f := by
  have h3 : ∀ b : Byte, b - 2 - 1 = b - 3 := by decide
  refine ⟨by simp [enterVector], by simp [enterVector], by simp [enterVector],
    (by simp [enterVector] : _ = s.sp - 2 - 1).trans (h3 _), by simp [enterVector], by simp [enterVector], by simp [enterVector], by simp [enterVector],
    by simp [enterVector], by simp [enterVector], by simp [enterVector], by simp [enterVector], ?_, ?_⟩
  · simp only [State.enterVector, State.jump_pc]
    exact State.readWord_congr rfl rfl vector
  · intro f
    simp only [State.enterVector, State.flag_jump, State.flag_setFlag, State.flag_push, State.flag_pushWord]
    cases f <;> simp

/-- The decode failure changes the latch and pc alone. -/
theorem State.decodeFailure_spec :
    let t := s.decodeFailure
    t = { s with halted := true, pc := if s.params.decodeFailPcRollback then s.pc else s.pc + 1 } := rfl

end Sys2Proof.Machine
end

