-- ==== Sys2Proof/Laws/Decode.lean ====
section
/-! SUPPORT. The small lemmas of the helpers, the decoder and the encoder. -/

namespace Sys2Proof

theorem toNat_zext (b : Byte) : (zext b).toNat = b.toNat := by
  unfold zext; have := b.isLt; simp; omega

theorem toNat_word (l h : Byte) : (word l h).toNat = h.toNat * 256 + l.toNat := by
  have hl := l.isLt
  unfold word
  rw [BitVec.toNat_append, Nat.shiftLeft_eq, ← Nat.shiftLeft_eq, Nat.shiftLeft_add_eq_or_of_lt hl, Nat.shiftLeft_eq]

theorem toNat_hi (w : Word) : (hi w).toNat = w.toNat / 256 := by
  unfold hi; have := w.isLt; simp [Nat.shiftRight_eq_div_pow]; omega

theorem toNat_lo (w : Word) : (lo w).toNat = w.toNat % 256 := by
  unfold lo; simp

@[simp] theorem lo_word (l h : Byte) : lo (word l h) = l := by
  apply BitVec.eq_of_toNat_eq
  rw [toNat_lo, toNat_word]; have := l.isLt; omega

@[simp] theorem hi_word (l h : Byte) : hi (word l h) = h := by
  apply BitVec.eq_of_toNat_eq
  rw [toNat_hi, toNat_word]; have := l.isLt; omega

@[simp] theorem word_lo_hi (w : Word) : word (lo w) (hi w) = w := by
  apply BitVec.eq_of_toNat_eq
  rw [toNat_word, toNat_hi, toNat_lo]; omega

/-- A list long enough decodes to the instruction of its first three bytes, with the rest left over. -/
theorem decode_cons (u : Unofficial) (op : Byte) (rest : List Byte) (h : lengthOf u op ≤ rest.length + 1) :
    decode u (op :: rest) =
      .ok (decodeBytes u op (rest.getD 0 0) (rest.getD 1 0), rest.drop (lengthOf u op - 1)) := by
  simp only [decode]; rw [if_neg (by omega)]

/-- An unmapped opcode decodes to the decode failure (R104). -/
theorem decodeBytes_unmapped {u : Unofficial} {op : Byte} (h : lookup u op = none) (b1 b2 : Byte) :
    decodeBytes u op b1 b2 = .unmapped op := by
  unfold decodeBytes; rw [h]

/-- A mapped opcode decodes to what its entry builds. -/
theorem decodeBytes_mapped {u : Unofficial} {op : Byte} {e : Entry} (h : lookup u op = some e) (b1 b2 : Byte) :
    decodeBytes u op b1 b2 = e.build b1 b2 := by
  unfold decodeBytes; rw [h]

/-- The operand bytes of a memory operand are as many as its mode consumes (R70). -/
theorem Addr.operands_length (m : Addr) : m.operands.length = m.mode.operandBytes := by cases m <;> rfl

theorem Src.operands_length (o : Src) : o.operands.length = o.mode.operandBytes := by
  cases o with
  | immediate b => rfl
  | mem m => exact m.operands_length

theorem Rmw.operands_length (t : Rmw) : t.operands.length = t.mode.operandBytes := by
  cases t with
  | accumulator => rfl
  | mem m => exact m.operands_length

theorem JumpTarget.operands_length (t : JumpTarget) : t.operands.length = t.mode.operandBytes := by cases t <;> rfl

theorem NopArg.operands_length (t : NopArg) : t.operands.length = t.mode.operandBytes := by
  cases t with
  | implied => rfl
  | immediate b => rfl
  | mem m => exact m.operands_length

/-- An instruction with an opcode encodes to as many bytes as its mode's operand count and one. -/
theorem encode_length_of {i : Instr} (h : i.operands.length = i.mode.operandBytes) {bs : List Byte}
    (he : encode i = some bs) : bs.length = i.length := by
  unfold encode at he
  obtain ⟨op, -, rfl⟩ := Option.map_eq_some_iff.mp he
  simp [Instr.length, h, Nat.add_comm]

/-! ### The dispatch ROM, row by row -/

/-- `P` holds of every mapped entry of a part of the ROM whose first opcode is `op`, with that entry's opcode. -/
def RowHolds (P : Byte → Entry → Prop) : Byte → List (Option Entry) → Prop
  | _, [] => True
  | op, none :: row => RowHolds P (op + 1) row
  | op, some e :: row => P op e ∧ RowHolds P (op + 1) row

theorem rowHolds_append {P : Byte → Entry → Prop} (op : Byte) (l l' : List (Option Entry)) :
    RowHolds P op (l ++ l') ↔ RowHolds P op l ∧ RowHolds P (op + BitVec.ofNat 8 l.length) l' := by
  induction l generalizing op with
  | nil => simp [RowHolds]
  | cons e l ih =>
    have h : op + 1 + BitVec.ofNat 8 l.length = op + BitVec.ofNat 8 (l.length + 1) := by
      apply BitVec.eq_of_toNat_eq; simp [Nat.add_assoc, Nat.add_comm 1]
    cases e with
    | none => simp only [List.cons_append, RowHolds, ih, h, List.length_cons]
    | some e => simp only [List.cons_append, RowHolds, ih, h, List.length_cons, and_assoc]

theorem rowHolds_get {P : Byte → Entry → Prop} {op : Byte} {l : List (Option Entry)} (h : RowHolds P op l)
    {k : Nat} {e : Entry} (he : l.getD k none = some e) : P (op + BitVec.ofNat 8 k) e := by
  induction l generalizing op k with
  | nil => exact absurd he (by simp)
  | cons x l ih =>
    cases k with
    | zero =>
      have hx : x = some e := he
      subst hx
      simpa using h.1
    | succ k =>
      have ht : RowHolds P (op + 1) l := by
        cases x with
        | none => exact h
        | some x => exact h.2
      have hk : op + 1 + BitVec.ofNat 8 k = op + BitVec.ofNat 8 (k + 1) := by
        apply BitVec.eq_of_toNat_eq; simp [Nat.add_assoc, Nat.add_comm 1]
      rw [← hk]
      exact ih ht he

/-- What holds of every mapped entry of every row of the map (R75) holds of whatever an opcode decodes to. -/
theorem lookup_holds {P : Byte → Entry → Prop} (h : RowHolds P 0x00 dispatchROM) {u : Unofficial} {op : Byte}
    {e : Entry} (he : lookup u op = some e) : P op e := by
  have hg : dispatchROM.getD op.toNat none = some e := by
    unfold lookup at he
    split at he
    · exact absurd he (by simp)
    · next e' hr =>
      split at he
      · exact absurd he (by simp)
      · injection he with he
        rw [hr, he]
  simpa using rowHolds_get h hg

theorem rowHolds_join {P : Byte → Entry → Prop} {op op' : Byte} {l l' : List (Option Entry)} {n : Nat}
    (h : RowHolds P op l ∧ l.length = n) (hop : op + BitVec.ofNat 8 n = op')
    (h' : RowHolds P op' l' ∧ l'.length = 16) : RowHolds P op (l ++ l') ∧ (l ++ l').length = n + 16 := by
  refine ⟨?_, by rw [List.length_append, h.2, h'.2]⟩
  rw [rowHolds_append, h.2, hop]
  exact ⟨h.1, h'.1⟩

/-- The map holds `P` when each of its sixteen rows does. -/
theorem rowHolds_dispatchROM {P : Byte → Entry → Prop}
    (h0 : RowHolds P 0x00 rom0) (h1 : RowHolds P 0x10 rom1) (h2 : RowHolds P 0x20 rom2)
    (h3 : RowHolds P 0x30 rom3) (h4 : RowHolds P 0x40 rom4) (h5 : RowHolds P 0x50 rom5)
    (h6 : RowHolds P 0x60 rom6) (h7 : RowHolds P 0x70 rom7) (h8 : RowHolds P 0x80 rom8)
    (h9 : RowHolds P 0x90 rom9) (hA : RowHolds P 0xA0 romA) (hB : RowHolds P 0xB0 romB)
    (hC : RowHolds P 0xC0 romC) (hD : RowHolds P 0xD0 romD) (hE : RowHolds P 0xE0 romE)
    (hF : RowHolds P 0xF0 romF) :
    RowHolds P 0x00 dispatchROM := by
  have j1 := rowHolds_join (n := 16) ⟨h0, rfl⟩ (by decide) ⟨h1, rfl⟩
  have j2 := rowHolds_join j1 (by decide) ⟨h2, rfl⟩
  have j3 := rowHolds_join j2 (by decide) ⟨h3, rfl⟩
  have j4 := rowHolds_join j3 (by decide) ⟨h4, rfl⟩
  have j5 := rowHolds_join j4 (by decide) ⟨h5, rfl⟩
  have j6 := rowHolds_join j5 (by decide) ⟨h6, rfl⟩
  have j7 := rowHolds_join j6 (by decide) ⟨h7, rfl⟩
  have j8 := rowHolds_join j7 (by decide) ⟨h8, rfl⟩
  have j9 := rowHolds_join j8 (by decide) ⟨h9, rfl⟩
  have jA := rowHolds_join j9 (by decide) ⟨hA, rfl⟩
  have jB := rowHolds_join jA (by decide) ⟨hB, rfl⟩
  have jC := rowHolds_join jB (by decide) ⟨hC, rfl⟩
  have jD := rowHolds_join jC (by decide) ⟨hD, rfl⟩
  have jE := rowHolds_join jD (by decide) ⟨hE, rfl⟩
  have jF := rowHolds_join jE (by decide) ⟨hF, rfl⟩
  exact jF.1

end Sys2Proof
end

