-- ==== Sys2Proof/Laws/Step.lean ====
section
/-! SUPPORT. What the shared shapes of a meaning answer, and everything one step can do. -/

namespace Sys2Proof.Machine

variable (s : State)

/-! ### The shapes of a meaning -/

/-- An instruction that retires answers a next state: its effect on the state past its bytes, with its cost added. -/
theorem retire_eq (mode : Mode) (cost : Nat) (f : State → State) :
    retire mode cost f s = .next ((f (s.advance (1 + mode.operandBytes))).charge cost) := rfl

/-- A branch answers a next state that differs in pc and cycles alone (R170). -/
theorem branch_eq (taken : Bool) (d : Byte) :
    branch taken d s = .next { s with
      pc := if taken then branchTarget (s.pc + 2) d else s.pc + 2
      cycles := s.cycles + BitVec.ofNat 64
        (branchCost taken (crosses (branchTarget (s.pc + 2) d) (s.pc + 2))) } := by
  cases taken <;> rfl

/-- A read-modify-write writes its result once and then acts on it. -/
theorem modifyMem_eq (m : Addr) (f : Byte → Byte) (after : Byte → State → State) :
    modifyMem m f after s = .next ((after (f (memValue m s))
      ((s.advance (1 + m.mode.operandBytes)).write (effectiveAddress m s) (f (memValue m s)))).charge
        (modifyBase m)) := rfl

/-- A shift of memory writes its result once, its carry to C, and then acts on the result. -/
theorem shiftMem_eq (m : Addr) (f : Byte → Shift) (after : Byte → State → State) :
    shiftMem m f after s = .next ((after (f (memValue m s)).result
      (((s.advance (1 + m.mode.operandBytes)).setFlag .c (f (memValue m s)).carry).write
        (effectiveAddress m s) (f (memValue m s)).result)).charge (modifyBase m)) := rfl

/-- A shift of the accumulator or of memory. -/
theorem shift_eq (t : Rmw) (f : Byte → Shift) :
    shift t f s = .next ((rmwStore t s (f (rmwValue t s)).result
      (((s.advance (1 + t.mode.operandBytes)).setFlag .c (f (rmwValue t s)).carry).setNZ
        (f (rmwValue t s)).result)).charge (rmwCost t)) := rfl

/-! ### The step -/

/-- What happens before a fetch (R238), case by case. -/
theorem State.beforeFetch_cases :
    (s.halted = true ∧ s.beforeFetch = some s) ∨
    (s.halted = false ∧ s.nmiPending = true ∧
      s.beforeFetch = some ({ s with nmiPending := false }.interruptEntry Config.nmiVector)) ∨
    (s.halted = false ∧ s.nmiPending = false ∧ s.irq = true ∧ s.flag .i = false ∧
      s.beforeFetch = some (s.interruptEntry Config.irqVector)) ∨
    (s.halted = false ∧ s.nmiPending = false ∧ (s.irq = false ∨ s.flag .i = true) ∧ s.beforeFetch = none) := by
  unfold State.beforeFetch
  cases s.halted <;> cases s.nmiPending <;> cases s.irq <;> cases s.flag .i <;> simp

/-- Everything a step that answers `t` can have done (R100, R238). -/
theorem step_cases {s t : State} (h : step s = .next t) :
    (s.halted = true ∧ t = s) ∨
    (s.halted = false ∧ s.nmiPending = true ∧
      t = { s with nmiPending := false }.interruptEntry Config.nmiVector) ∨
    (s.halted = false ∧ s.nmiPending = false ∧ s.irq = true ∧ s.flag .i = false ∧
      t = s.interruptEntry Config.irqVector) ∨
    (s.halted = false ∧ s.nmiPending = false ∧ (s.irq = false ∨ s.flag .i = true) ∧
      exec s.fetchInstr s = .next t) := by
  unfold step at h
  rcases s.beforeFetch_cases with ⟨h1, hb⟩ | ⟨h1, h2, hb⟩ | ⟨h1, h2, h3, h4, hb⟩ | ⟨h1, h2, h3, hb⟩ <;>
    simp only [hb] at h
  · injection h with h; exact .inl ⟨h1, h.symm⟩
  · injection h with h; exact .inr (.inl ⟨h1, h2, h.symm⟩)
  · injection h with h; exact .inr (.inr (.inl ⟨h1, h2, h3, h4, h.symm⟩))
  · exact .inr (.inr (.inr ⟨h1, h2, h3, h⟩))

/-- The run loop, unfolded once (R248). -/
theorem runLoop_succ (fuel : Nat) :
    runLoop (fuel + 1) s =
      if s.breakpoint = some s.pc then .next (.atBreakpoint, s)
      else
        match step s with
        | .next t => if t.halted then .next (.decodeFailed, t) else runLoop fuel t
        | .fault r => .fault r
        | .refused r => .refused r := rfl

end Sys2Proof.Machine
end

