-- ==== Sys2Proof/Laws/Claims.lean ====
section
/-! SUPPORT. How to show each of the words of Sys2Proof/Safety.lean from the fields, flags and memory of a state. -/

namespace Sys2Proof

open Sys2Proof.Machine

/-- Bit 7 of a Byte is set from 0x80 on. -/
theorem getLsbD_seven (v : Byte) : v.getLsbD 7 = true ↔ 128 ≤ v.toNat := by revert v; decide

theorem nz_of_flags {v : Byte} {t : State} (hz : t.flag .z = (v == 0)) (hn : t.flag .n = v.getLsbD 7) : NZ v t :=
  ⟨by rw [hz]; simp, by rw [hn]; exact getLsbD_seven v⟩

theorem sameBytes_of_stores {s t : State} (hr : t.ram = s.ram) (hc : t.cart = s.cart) : SameBytes s t :=
  ⟨hc, fun addr => State.read_congr hr hc addr⟩

/-- A state whose RAM is that of a bus write stores that Byte (R41, R42). -/
theorem stores_of_write {e : Word} {v : Byte} {s t : State} (hr : t.ram = (s.write e v).ram)
    (hc : t.cart = (s.write e v).cart) : Stores e v s t := by
  have h : ∀ addr, t.read addr = (s.write e v).read addr := fun addr => State.read_congr hr hc addr
  refine ⟨?_, fun addr ha => ?_, fun hs addr ha => ?_⟩
  · rw [hc, State.write_cart]
  · rw [h, State.read_write_other _ _ _ _ ha]
  · have he : e < 0x2000#16 := by simp only [sameCell, Bool.and_eq_true, decide_eq_true_eq] at ha; exact ha.1.1
    rw [h, State.read_write _ _ _ _ he hs.1, if_pos ha]

theorem retires_of_fields {length cost : Nat} {s t : State} (hp : t.pc = s.pc + BitVec.ofNat 16 length)
    (hn : t.cycles = s.cycles + BitVec.ofNat 64 cost)
    (hs : t.halted = s.halted ∧ t.nmiPending = s.nmiPending ∧ t.irq = s.irq ∧ t.breakpoint = s.breakpoint ∧
      t.params = s.params) : Retires length cost s t :=
  ⟨hp, hn, hs⟩

/-- The pointers of three pushes in a row are three. -/
theorem stack_pointers_distinct (sp : Byte) : (sp == sp - 1) = false ∧ (sp == sp - 2) = false ∧
    (sp - 1 == sp - 2) = false ∧ (sp - 1 == sp) = false ∧ (sp - 2 == sp) = false ∧ (sp - 2 == sp - 1) = false := by
  revert sp; decide

/-- A pc read from a vector with the RAM and the cartridge of `s`, in the words of claims (R46). -/
theorem loadsVector_of_readWord {vector : Word} {s t : State} (h : t.pc = s.readWord vector) :
    LoadsVector vector s t := by
  unfold LoadsVector
  rw [h, State.readWord, toNat_word]

/-- The shared entry (R240, R183), in the words of claims. The vectors are not in RAM. -/
theorem enterVector_enters (returnTo : Word) (pushed : Byte) (vector : Word) (s : State)
    (hv : ¬ vector < 0x2000#16) (hv' : ¬ vector + 1 < 0x2000#16) :
    Enters returnTo pushed vector s (s.enterVector returnTo pushed vector) := by
  obtain ⟨ha, hx, hy, hsp, -, -, -, -, -, hc, -, hr, hpc, hf⟩ := s.enterVector_spec returnTo pushed vector
  have h : ∀ addr, (s.enterVector returnTo pushed vector).read addr = ((s.pushWord returnTo).push pushed).read addr :=
    fun addr => State.read_congr hr (by simp [hc]) addr
  refine ⟨loadsVector_of_readWord ?_, hsp, ha, hx, hy, hc, by rw [hf]; rfl, fun f hn => ?_, fun addr h0 h1 h2 => ?_,
    fun hs => ?_⟩
  · rw [hpc]
    unfold State.readWord
    rw [State.read_outside_ram (t := s) (by simp) hv, State.read_outside_ram (t := s) (by simp) hv']
  · rw [hf, if_neg (by simpa using hn)]
  · rw [h, State.read_push,
      State.read_write_ram_other _ _ _ _ (stackAddr_in_ram _) (by rw [State.pushWord_sp]; exact h2),
      State.read_pushWord_other _ _ _ h0 h1]
  · obtain ⟨d1, d2, d3, d4, d5, d6⟩ := stack_pointers_distinct s.sp
    rw [h, h, h]
    simp only [State.read_push, State.read_write _ _ _ _ (stackAddr_in_ram _) (s.pushWord_keeps_ram returnTo hs.1),
      State.read_pushWord _ _ _ hs.1, sameCell_stackAddr, State.pushWord_sp, d1, d2, d3, d4, d5, d6,
      beq_self_eq_true, if_true, if_false, Bool.false_eq_true]
    exact ⟨trivial, trivial, trivial⟩

theorem enterVector_keeps_host_side (returnTo : Word) (pushed : Byte) (vector : Word) (s : State) :
    SameHostSide s (s.enterVector returnTo pushed vector) := by
  obtain ⟨-, -, -, -, -, -, -, hi, hb, -, hp, -⟩ := s.enterVector_spec returnTo pushed vector
  exact ⟨hi, hb, hp⟩

end Sys2Proof
end

