-- ==== Sys2Proof/Laws/Elementary.lean ====
section
/-! SUPPORT. Every meaning and every step is a chain of a few elementary updates, so a relation between states that
is reflexive and transitive and holds across each of them holds across `exec` and `step`. -/

namespace Sys2Proof.Machine

/-- `R` holds across each update that some step makes. No step writes the live B or U by a flag write. -/
structure Elementary (R : State → State → Prop) : Prop where
  refl : ∀ s, R s s
  trans : ∀ s t u, R s t → R t u → R s u
  a : ∀ (s : State) (v : Byte), R s { s with a := v }
  x : ∀ (s : State) (v : Byte), R s { s with x := v }
  y : ∀ (s : State) (v : Byte), R s { s with y := v }
  sp : ∀ (s : State) (v : Byte), R s { s with sp := v }
  pc : ∀ (s : State) (v : Word), R s { s with pc := v }
  cycles : ∀ (s : State) (v : BitVec 64), R s { s with cycles := v }
  halt : ∀ s : State, R s { s with halted := true }
  nmi : ∀ s : State, R s { s with nmiPending := false }
  flag : ∀ (s : State) (f : Flag) (b : Bool), f ≠ .b → f ≠ .u → R s (s.setFlag f b)
  pull : ∀ (s : State) (v : Byte), R s (s.pullStatus v)
  write : ∀ (s : State) (e : Word) (v : Byte), R s (s.write e v)

variable {R : State → State → Prop} (h : Elementary R) (s : State)

include h

theorem Elementary.two {s t u : State} (h₁ : R s t) (h₂ : R t u) : R s u := h.trans s t u h₁ h₂

theorem Elementary.setNZ (v : Byte) : R s (s.setNZ v) :=
  h.two (h.flag s .z (v == 0) (by decide) (by decide)) (h.flag _ .n (v.getLsbD 7) (by decide) (by decide))

theorem Elementary.loadA (v : Byte) : R s (s.loadA v) := h.two (h.a s v) (h.setNZ _ v)

theorem Elementary.loadX (v : Byte) : R s (s.loadX v) := h.two (h.x s v) (h.setNZ _ v)

theorem Elementary.loadY (v : Byte) : R s (s.loadY v) := h.two (h.y s v) (h.setNZ _ v)

theorem Elementary.compare (r m : Byte) : R s (s.compare r m) :=
  h.two (h.two (h.flag s .c _ (by decide) (by decide)) (h.flag _ .z _ (by decide) (by decide)))
    (h.flag _ .n _ (by decide) (by decide))

theorem Elementary.testBits (m : Byte) : R s (s.testBits m) :=
  h.two (h.two (h.flag s .z _ (by decide) (by decide)) (h.flag _ .n _ (by decide) (by decide)))
    (h.flag _ .v _ (by decide) (by decide))

theorem Elementary.addWithCarry (m : Byte) : R s (s.addWithCarry m) :=
  h.two (h.two (h.two (h.flag s .c _ (by decide) (by decide)) (h.flag _ .v _ (by decide) (by decide))) (h.a _ _))
    (h.setNZ _ _)

theorem Elementary.push (v : Byte) : R s (s.push v) := h.two (h.write s (stackAddr s.sp) v) (h.sp _ _)

theorem Elementary.pushWord (w : Word) : R s (s.pushWord w) := h.two (h.push s _) (h.push _ _)

theorem Elementary.enterVector (returnTo : Word) (pushed : Byte) (vector : Word) :
    R s (s.enterVector returnTo pushed vector) :=
  h.two (h.two (h.two (h.pushWord s returnTo) (h.push _ pushed)) (h.flag _ .i true (by decide) (by decide)))
    (h.pc _ _)

theorem Elementary.interruptEntry (vector : Word) : R s (s.interruptEntry vector) :=
  h.two (h.enterVector s s.pc s.statusInterrupted vector) (h.cycles _ _)

theorem Elementary.decodeFailure : R s s.decodeFailure := h.two (h.halt s) (h.pc _ _)

theorem Elementary.rmwStore (t : Rmw) (before : State) (r : Byte) : R s (rmwStore t before r s) := by
  cases t with
  | accumulator => exact h.a s r
  | mem m => exact h.write s _ r

theorem Elementary.retire {mode : Mode} {cost : Nat} {f : State → State} {s t : State} (hf : ∀ u, R u (f u))
    (ht : retire mode cost f s = .next t) : R s t := by
  rw [retire_eq] at ht
  injection ht with ht
  exact ht ▸ h.two (h.two (h.pc s _) (hf _)) (h.cycles _ _)

theorem Elementary.branch {taken : Bool} {d : Byte} {s t : State} (ht : branch taken d s = .next t) : R s t := by
  refine h.retire (f := fun u => if taken then u.jump (branchTarget (s.pc + 2) d) else u) (fun u => ?_) ht
  cases taken
  · exact h.refl u
  · exact h.pc u _

theorem Elementary.modifyMem {m : Addr} {f : Byte → Byte} {after : Byte → State → State} {s t : State}
    (ha : ∀ r u, R u (after r u)) (ht : modifyMem m f after s = .next t) : R s t :=
  h.retire (fun u => h.two (h.write u _ _) (ha _ _)) ht

theorem Elementary.shiftMem {m : Addr} {f : Byte → Shift} {after : Byte → State → State} {s t : State}
    (ha : ∀ r u, R u (after r u)) (ht : shiftMem m f after s = .next t) : R s t :=
  h.retire (fun u => h.two (h.two (h.flag u .c _ (by decide) (by decide)) (h.write _ _ _)) (ha _ _)) ht

theorem Elementary.shift {o : Rmw} {f : Byte → Shift} {s t : State} (ht : shift o f s = .next t) : R s t :=
  h.retire (fun u => h.two (h.two (h.flag u .c _ (by decide) (by decide)) (h.setNZ _ _)) (h.rmwStore _ _ _ _)) ht

/-- Whatever an instruction answers is related to the state it ran in. -/
theorem Elementary.exec {i : Instr} {s t : State} (ht : exec i s = .next t) : R s t := by
  cases i with
  | lda o => exact h.retire (fun u => h.loadA u _) ht
  | ldx o => exact h.retire (fun u => h.loadX u _) ht
  | ldy o => exact h.retire (fun u => h.loadY u _) ht
  | sta m => exact h.retire (fun u => h.write u _ _) ht
  | stx m => exact h.retire (fun u => h.write u _ _) ht
  | sty m => exact h.retire (fun u => h.write u _ _) ht
  | adc o => exact h.retire (fun u => h.addWithCarry u _) ht
  | sbc o => exact h.retire (fun u => h.addWithCarry u _) ht
  | and o => exact h.retire (fun u => h.loadA u _) ht
  | ora o => exact h.retire (fun u => h.loadA u _) ht
  | eor o => exact h.retire (fun u => h.loadA u _) ht
  | cmp o => exact h.retire (fun u => h.compare u _ _) ht
  | cpx o => exact h.retire (fun u => h.compare u _ _) ht
  | cpy o => exact h.retire (fun u => h.compare u _ _) ht
  | bit m => exact h.retire (fun u => h.testBits u _) ht
  | asl o => exact h.shift ht
  | lsr o => exact h.shift ht
  | rol o => exact h.shift ht
  | ror o => exact h.shift ht
  | inc m => exact h.modifyMem (f := (· + 1)) (fun r u => h.setNZ u r) ht
  | dec m => exact h.modifyMem (f := (· - 1)) (fun r u => h.setNZ u r) ht
  | inx => exact h.retire (fun u => h.loadX u _) ht
  | iny => exact h.retire (fun u => h.loadY u _) ht
  | dex => exact h.retire (fun u => h.loadX u _) ht
  | dey => exact h.retire (fun u => h.loadY u _) ht
  | bcc d => exact h.branch ht
  | bcs d => exact h.branch ht
  | beq d => exact h.branch ht
  | bne d => exact h.branch ht
  | bmi d => exact h.branch ht
  | bpl d => exact h.branch ht
  | bvc d => exact h.branch ht
  | bvs d => exact h.branch ht
  | jmp o => exact h.retire (fun u => h.pc u _) ht
  | jsr w => exact h.retire (fun u => h.two (h.pushWord u _) (h.pc _ _)) ht
  | rts => exact h.retire (fun u => h.two (h.sp u _) (h.pc _ _)) ht
  | rti => exact h.retire (fun u => h.two (h.two (h.pull u _) (h.sp _ _)) (h.pc _ _)) ht
  | brk => exact h.retire (fun u => h.enterVector u _ _ _) ht
  | pha => exact h.retire (fun u => h.push u _) ht
  | php => exact h.retire (fun u => h.push u _) ht
  | pla => exact h.retire (fun u => h.two (h.sp u _) (h.loadA _ _)) ht
  | plp => exact h.retire (fun u => h.two (h.sp u _) (h.pull _ _)) ht
  | clc => exact h.retire (fun u => h.flag u .c false (by decide) (by decide)) ht
  | sec => exact h.retire (fun u => h.flag u .c true (by decide) (by decide)) ht
  | cli => exact h.retire (fun u => h.flag u .i false (by decide) (by decide)) ht
  | sei => exact h.retire (fun u => h.flag u .i true (by decide) (by decide)) ht
  | cld => exact h.retire (fun u => h.flag u .d false (by decide) (by decide)) ht
  | sed => exact h.retire (fun u => h.flag u .d true (by decide) (by decide)) ht
  | clv => exact h.retire (fun u => h.flag u .v false (by decide) (by decide)) ht
  | tax => exact h.retire (fun u => h.loadX u _) ht
  | tay => exact h.retire (fun u => h.loadY u _) ht
  | txa => exact h.retire (fun u => h.loadA u _) ht
  | tya => exact h.retire (fun u => h.loadA u _) ht
  | tsx => exact h.retire (fun u => h.loadX u _) ht
  | txs => exact h.retire (fun u => h.sp u _) ht
  | nop => exact h.retire (fun u => h.refl u) ht
  | nopU op arg => exact h.retire (fun u => h.refl u) ht
  | laxU m => exact h.retire (fun u => h.two (h.a u _) (h.loadX _ _)) ht
  | saxU m => exact h.retire (fun u => h.write u _ _) ht
  | sbcU b => exact h.retire (fun u => h.addWithCarry u _) ht
  | dcpU m => exact h.modifyMem (f := (· - 1)) (fun r u => h.compare u _ r) ht
  | isbU m => exact h.modifyMem (f := (· + 1)) (fun r u => h.addWithCarry u _) ht
  | sloU m => exact h.shiftMem (fun r u => h.loadA u _) ht
  | rlaU m => exact h.shiftMem (fun r u => h.loadA u _) ht
  | sreU m => exact h.shiftMem (fun r u => h.loadA u _) ht
  | rraU m => exact h.shiftMem (fun r u => h.addWithCarry u r) ht
  | unmapped op =>
    have ht : Host.Outcome.next s.decodeFailure = Host.Outcome.next t := ht
    injection ht with ht
    exact ht ▸ h.decodeFailure s

/-- Whatever a step answers is related to the state it started from. -/
theorem Elementary.step {s t : State} (ht : step s = .next t) : R s t := by
  rcases step_cases ht with ⟨-, rfl⟩ | ⟨-, -, rfl⟩ | ⟨-, -, -, -, rfl⟩ | ⟨-, -, -, he⟩
  · exact h.refl _
  · exact h.two (h.nmi s) (h.interruptEntry _ _)
  · exact h.interruptEntry _ _
  · exact h.exec he

end Sys2Proof.Machine
end

