-- ==== Sys2Proof/Laws/PerInstr.lean ====
section
/-! SUPPORT. Statements made per instruction: the family EncodedLength. -/

/-- The bytes an instruction encodes to are as many as its length (spec/30_encoding.md R70, R72). -/
def Sys2Proof.Laws.EncodedLength.Statement (i : Sys2Proof.Instr) : Prop :=
  ∀ bs, Sys2Proof.encode i = some bs → bs.length = i.length

namespace Sys2Proof.Laws.EncodedLength

theorem lda (o : Src) : Statement (.lda o) := fun _ => encode_length_of (by exact o.operands_length)
theorem ldx (o : Src) : Statement (.ldx o) := fun _ => encode_length_of (by exact o.operands_length)
theorem ldy (o : Src) : Statement (.ldy o) := fun _ => encode_length_of (by exact o.operands_length)
theorem sta (m : Addr) : Statement (.sta m) := fun _ => encode_length_of (by exact m.operands_length)
theorem stx (m : Addr) : Statement (.stx m) := fun _ => encode_length_of (by exact m.operands_length)
theorem sty (m : Addr) : Statement (.sty m) := fun _ => encode_length_of (by exact m.operands_length)
theorem adc (o : Src) : Statement (.adc o) := fun _ => encode_length_of (by exact o.operands_length)
theorem sbc (o : Src) : Statement (.sbc o) := fun _ => encode_length_of (by exact o.operands_length)
theorem and (o : Src) : Statement (.and o) := fun _ => encode_length_of (by exact o.operands_length)
theorem ora (o : Src) : Statement (.ora o) := fun _ => encode_length_of (by exact o.operands_length)
theorem eor (o : Src) : Statement (.eor o) := fun _ => encode_length_of (by exact o.operands_length)
theorem cmp (o : Src) : Statement (.cmp o) := fun _ => encode_length_of (by exact o.operands_length)
theorem cpx (o : Src) : Statement (.cpx o) := fun _ => encode_length_of (by exact o.operands_length)
theorem cpy (o : Src) : Statement (.cpy o) := fun _ => encode_length_of (by exact o.operands_length)
theorem bit (m : Addr) : Statement (.bit m) := fun _ => encode_length_of (by exact m.operands_length)
theorem asl (t : Rmw) : Statement (.asl t) := fun _ => encode_length_of (by exact t.operands_length)
theorem lsr (t : Rmw) : Statement (.lsr t) := fun _ => encode_length_of (by exact t.operands_length)
theorem rol (t : Rmw) : Statement (.rol t) := fun _ => encode_length_of (by exact t.operands_length)
theorem ror (t : Rmw) : Statement (.ror t) := fun _ => encode_length_of (by exact t.operands_length)
theorem inc (m : Addr) : Statement (.inc m) := fun _ => encode_length_of (by exact m.operands_length)
theorem dec (m : Addr) : Statement (.dec m) := fun _ => encode_length_of (by exact m.operands_length)
theorem inx : Statement .inx := fun _ => encode_length_of rfl
theorem iny : Statement .iny := fun _ => encode_length_of rfl
theorem dex : Statement .dex := fun _ => encode_length_of rfl
theorem dey : Statement .dey := fun _ => encode_length_of rfl
theorem bcc (d : Byte) : Statement (.bcc d) := fun _ => encode_length_of rfl
theorem bcs (d : Byte) : Statement (.bcs d) := fun _ => encode_length_of rfl
theorem beq (d : Byte) : Statement (.beq d) := fun _ => encode_length_of rfl
theorem bne (d : Byte) : Statement (.bne d) := fun _ => encode_length_of rfl
theorem bmi (d : Byte) : Statement (.bmi d) := fun _ => encode_length_of rfl
theorem bpl (d : Byte) : Statement (.bpl d) := fun _ => encode_length_of rfl
theorem bvc (d : Byte) : Statement (.bvc d) := fun _ => encode_length_of rfl
theorem bvs (d : Byte) : Statement (.bvs d) := fun _ => encode_length_of rfl
theorem jmp (t : JumpTarget) : Statement (.jmp t) := fun _ => encode_length_of (by exact t.operands_length)
theorem jsr (w : Word) : Statement (.jsr w) := fun _ => encode_length_of rfl
theorem rts : Statement .rts := fun _ => encode_length_of rfl
theorem rti : Statement .rti := fun _ => encode_length_of rfl
theorem brk : Statement .brk := fun _ => encode_length_of rfl
theorem pha : Statement .pha := fun _ => encode_length_of rfl
theorem php : Statement .php := fun _ => encode_length_of rfl
theorem pla : Statement .pla := fun _ => encode_length_of rfl
theorem plp : Statement .plp := fun _ => encode_length_of rfl
theorem clc : Statement .clc := fun _ => encode_length_of rfl
theorem sec : Statement .sec := fun _ => encode_length_of rfl
theorem cli : Statement .cli := fun _ => encode_length_of rfl
theorem sei : Statement .sei := fun _ => encode_length_of rfl
theorem cld : Statement .cld := fun _ => encode_length_of rfl
theorem sed : Statement .sed := fun _ => encode_length_of rfl
theorem clv : Statement .clv := fun _ => encode_length_of rfl
theorem tax : Statement .tax := fun _ => encode_length_of rfl
theorem tay : Statement .tay := fun _ => encode_length_of rfl
theorem txa : Statement .txa := fun _ => encode_length_of rfl
theorem tya : Statement .tya := fun _ => encode_length_of rfl
theorem tsx : Statement .tsx := fun _ => encode_length_of rfl
theorem txs : Statement .txs := fun _ => encode_length_of rfl
theorem nop : Statement .nop := fun _ => encode_length_of rfl
theorem nopU (op : Byte) (arg : NopArg) : Statement (.nopU op arg) := fun _ => encode_length_of (by exact arg.operands_length)
theorem laxU (m : Addr) : Statement (.laxU m) := fun _ => encode_length_of (by exact m.operands_length)
theorem saxU (m : Addr) : Statement (.saxU m) := fun _ => encode_length_of (by exact m.operands_length)
theorem sbcU (b : Byte) : Statement (.sbcU b) := fun _ => encode_length_of rfl
theorem dcpU (m : Addr) : Statement (.dcpU m) := fun _ => encode_length_of (by exact m.operands_length)
theorem isbU (m : Addr) : Statement (.isbU m) := fun _ => encode_length_of (by exact m.operands_length)
theorem sloU (m : Addr) : Statement (.sloU m) := fun _ => encode_length_of (by exact m.operands_length)
theorem rlaU (m : Addr) : Statement (.rlaU m) := fun _ => encode_length_of (by exact m.operands_length)
theorem sreU (m : Addr) : Statement (.sreU m) := fun _ => encode_length_of (by exact m.operands_length)
theorem rraU (m : Addr) : Statement (.rraU m) := fun _ => encode_length_of (by exact m.operands_length)
theorem unmapped (op : Byte) : Statement (.unmapped op) := fun _ => encode_length_of rfl

end Sys2Proof.Laws.EncodedLength
end

