-- ==== Sys2Proof/Tests/Slice0.lean ====
section
/-! SUPPORT. The tests: decoding of words written out from spec/30_encoding.md R75, ill-formed terms for each check
of `Instr.wf`, single steps whose results stand in spec/95_test_vectors.md (the vector's name ends the test's), and a
witness for the hypotheses of every obligation that has any. -/

namespace Sys2Proof.Tests

open Sys2Proof Sys2Proof.Machine

/-! ### Small states -/

/-- The vectors' default state (95_test_vectors.md, Conventions) with these bytes in the cartridge's image. -/
def begin (pc : Word) (prg : Memory) : State :=
  { State.reset with pc := pc, cycles := 0, cart := .nrom { banks := .two, prg := prg } }

/-- The same with this code at pc, which is in the ROM window. -/
def start (pc : Word) (code : List Byte) : State := begin pc (Memory.ofBytes (pc.toNat - 0x8000) code)

/-- The parameters that map the unofficial opcodes. -/
def mapped : Params := { unofficial := .nestest }

/-- What `f` reads from the state after one step. -/
def after {α : Type} (f : State → α) (s : State) : Option α :=
  match step s with
  | .next t => some (f t)
  | .fault _ => none
  | .refused _ => none

/-! ### Decoding: opcode bytes from the rules' "Opcodes:" lines, operand bytes in stream order (R71) -/

theorem test_decode_loads_stores :
    decode .off [0xA9, 0x2A] = .ok (.lda (.immediate 0x2A), []) ∧
    decode .off [0xA2, 0x01] = .ok (.ldx (.immediate 0x01), []) ∧
    decode .off [0xBC, 0xF0, 0x02] = .ok (.ldy (.mem (.absoluteX 0x02F0)), []) ∧
    decode .off [0x91, 0x10] = .ok (.sta (.indirectIndexed 0x10), []) ∧
    decode .off [0x96, 0xFF] = .ok (.stx (.zeroPageY 0xFF), []) ∧
    decode .off [0x94, 0xFF] = .ok (.sty (.zeroPageX 0xFF), []) := by
  and_intros <;> decide

theorem test_decode_alu :
    decode .off [0x79, 0xF0, 0x02] = .ok (.adc (.mem (.absoluteY 0x02F0)), []) ∧
    decode .off [0xE9, 0x01] = .ok (.sbc (.immediate 0x01), []) ∧
    decode .off [0x35, 0x10] = .ok (.and (.mem (.zeroPageX 0x10)), []) ∧
    decode .off [0x0D, 0x34, 0x12] = .ok (.ora (.mem (.absolute 0x1234)), []) ∧
    decode .off [0x41, 0x20] = .ok (.eor (.mem (.indexedIndirect 0x20)), []) ∧
    decode .off [0xD1, 0x20] = .ok (.cmp (.mem (.indirectIndexed 0x20)), []) ∧
    decode .off [0xE4, 0x10] = .ok (.cpx (.mem (.zeroPage 0x10)), []) ∧
    decode .off [0xCC, 0x34, 0x12] = .ok (.cpy (.mem (.absolute 0x1234)), []) ∧
    decode .off [0x2C, 0x02, 0x20] = .ok (.bit (.absolute 0x2002), []) := by
  and_intros <;> decide

theorem test_decode_shifts_incdec :
    decode .off [0x0A] = .ok (.asl .accumulator, []) ∧
    decode .off [0x56, 0x0F] = .ok (.lsr (.mem (.zeroPageX 0x0F)), []) ∧
    decode .off [0x2E, 0x00, 0x02] = .ok (.rol (.mem (.absolute 0x0200)), []) ∧
    decode .off [0x7E, 0x00, 0x02] = .ok (.ror (.mem (.absoluteX 0x0200)), []) ∧
    decode .off [0xE6, 0x10] = .ok (.inc (.zeroPage 0x10), []) ∧
    decode .off [0xDE, 0xFF, 0x01] = .ok (.dec (.absoluteX 0x01FF), []) ∧
    decode .off [0xE8] = .ok (.inx, []) ∧
    decode .off [0xC8] = .ok (.iny, []) ∧
    decode .off [0xCA] = .ok (.dex, []) ∧
    decode .off [0x88] = .ok (.dey, []) := by
  and_intros <;> decide

theorem test_decode_branches :
    decode .off [0x90, 0xFE] = .ok (.bcc 0xFE, []) ∧
    decode .off [0xB0, 0x10] = .ok (.bcs 0x10, []) ∧
    decode .off [0xF0, 0x10] = .ok (.beq 0x10, []) ∧
    decode .off [0xD0, 0xFC] = .ok (.bne 0xFC, []) ∧
    decode .off [0x30, 0x80] = .ok (.bmi 0x80, []) ∧
    decode .off [0x10, 0x7F] = .ok (.bpl 0x7F, []) ∧
    decode .off [0x50, 0x10] = .ok (.bvc 0x10, []) ∧
    decode .off [0x70, 0x10] = .ok (.bvs 0x10, []) := by
  and_intros <;> decide

theorem test_decode_jumps :
    decode .off [0x4C, 0x34, 0x92] = .ok (.jmp (.absolute 0x9234), []) ∧
    decode .off [0x6C, 0xFF, 0x02] = .ok (.jmp (.indirect 0x02FF), []) ∧
    decode .off [0x20, 0x00, 0x90] = .ok (.jsr 0x9000, []) ∧
    decode .off [0x60] = .ok (.rts, []) ∧
    decode .off [0x40] = .ok (.rti, []) ∧
    decode .off [0x00] = .ok (.brk, []) := by
  and_intros <;> decide

theorem test_decode_stack_flags :
    decode .off [0x48] = .ok (.pha, []) ∧
    decode .off [0x08] = .ok (.php, []) ∧
    decode .off [0x68] = .ok (.pla, []) ∧
    decode .off [0x28] = .ok (.plp, []) ∧
    decode .off [0x18] = .ok (.clc, []) ∧
    decode .off [0x38] = .ok (.sec, []) ∧
    decode .off [0x58] = .ok (.cli, []) ∧
    decode .off [0x78] = .ok (.sei, []) ∧
    decode .off [0xD8] = .ok (.cld, []) ∧
    decode .off [0xF8] = .ok (.sed, []) ∧
    decode .off [0xB8] = .ok (.clv, []) := by
  and_intros <;> decide

theorem test_decode_transfers :
    decode .off [0xAA] = .ok (.tax, []) ∧
    decode .off [0xA8] = .ok (.tay, []) ∧
    decode .off [0x8A] = .ok (.txa, []) ∧
    decode .off [0x98] = .ok (.tya, []) ∧
    decode .off [0xBA] = .ok (.tsx, []) ∧
    decode .off [0x9A] = .ok (.txs, []) ∧
    decode .off [0xEA] = .ok (.nop, []) := by
  and_intros <;> decide

theorem test_decode_unofficial :
    decode .nestest [0x1C, 0xF0, 0x12] = .ok (.nopU 0x1C (.mem (.absoluteX 0x12F0)), []) ∧
    decode .nestest [0xB7, 0x10] = .ok (.laxU (.zeroPageY 0x10), []) ∧
    decode .nestest [0x83, 0x10] = .ok (.saxU (.indexedIndirect 0x10), []) ∧
    decode .nestest [0xEB, 0x01] = .ok (.sbcU 0x01, []) ∧
    decode .nestest [0xDB, 0x34, 0x12] = .ok (.dcpU (.absoluteY 0x1234), []) ∧
    decode .nestest [0xE7, 0x10] = .ok (.isbU (.zeroPage 0x10), []) ∧
    decode .nestest [0x1F, 0xF0, 0x02] = .ok (.sloU (.absoluteX 0x02F0), []) ∧
    decode .nestest [0x33, 0x10] = .ok (.rlaU (.indirectIndexed 0x10), []) ∧
    decode .nestest [0x4F, 0x34, 0x12] = .ok (.sreU (.absolute 0x1234), []) ∧
    decode .nestest [0x77, 0x10] = .ok (.rraU (.zeroPageX 0x10), []) ∧
    decode .nestest [0x02] = .ok (.unmapped 0x02, []) := by
  and_intros <;> decide

/-- One opcode of each family bit by bit: LDA #, ADC abs, ROR A, BNE, JSR, PLP, TSX, *RRA zp (R75). -/
theorem test_decode_bits :
    decode .off [0b10101001, 0x2A] = .ok (.lda (.immediate 0x2A), []) ∧
    decode .off [0b01101101, 0x34, 0x12] = .ok (.adc (.mem (.absolute 0x1234)), []) ∧
    decode .off [0b01101010] = .ok (.ror .accumulator, []) ∧
    decode .off [0b11010000, 0x05] = .ok (.bne 0x05, []) ∧
    decode .off [0b00100000, 0x00, 0x90] = .ok (.jsr 0x9000, []) ∧
    decode .off [0b00101000] = .ok (.plp, []) ∧
    decode .off [0b10111010] = .ok (.tsx, []) ∧
    decode .nestest [0b01100111, 0x10] = .ok (.rraU (.zeroPage 0x10), []) := by decide

/-- A table word has its first byte in the low bits; bits it does not give are 0. -/
theorem test_decode_table_word :
    decodeTableWord 8 0xA9 = some (.lda (.immediate 0x00)) ∧
    decodeTableWord 24 0x1234AD = some (.lda (.mem (.absolute 0x1234))) ∧
    decodeTableWord 8 0x1234EB = some (.sbcU 0x00) ∧
    decodeTableWord 8 0x02 = some (.unmapped 0x02) := by decide

/-- A list that ends before the operand bytes do is rejected by name. -/
theorem test_decode_rejects :
    decode .off [] = .error .noOpcode ∧ decode .off [0xAD, 0x34] = .error (.truncated 0xAD) := by decide

/-- The sixteen rows of the map. -/
def rows : List (List (Option Entry)) :=
  [rom0, rom1, rom2, rom3, rom4, rom5, rom6, rom7, rom8, rom9, romA, romB, romC, romD, romE, romF]

/-- 151 official, 80 unofficial and 25 unmapped opcodes (R76-R78). -/
theorem test_rom_counts :
    (rows.map (fun row => row.countP (fun e => e.map (·.official) == some true))).sum = 151 ∧
    (rows.map (fun row => row.countP (fun e => e.map (·.official) == some false))).sum = 80 ∧
    (rows.map (fun row => row.countP (·.isNone))).sum = 25 := by decide

/-! ### Well-formedness: for each check a term it refuses -/

theorem test_wf_refuses_read_forms :
    Instr.wf .nestest (.lda (.mem (.zeroPageY 0x10))) = false ∧ Instr.wf .off (.adc (.mem (.zeroPageY 0x10))) = false ∧
    Instr.wf .off (.sbc (.mem (.zeroPageY 0x10))) = false ∧ Instr.wf .off (.and (.mem (.zeroPageY 0x10))) = false ∧
    Instr.wf .off (.ora (.mem (.zeroPageY 0x10))) = false ∧ Instr.wf .off (.eor (.mem (.zeroPageY 0x10))) = false ∧
    Instr.wf .off (.cmp (.mem (.zeroPageY 0x10))) = false ∧ Instr.wf .off (.ldx (.mem (.zeroPageX 0x10))) = false ∧
    Instr.wf .off (.ldy (.mem (.zeroPageY 0x10))) = false ∧ Instr.wf .off (.cpx (.mem (.zeroPageX 0x10))) = false ∧
    Instr.wf .off (.cpy (.mem (.absoluteX 0x1234))) = false ∧ Instr.wf .off (.bit (.zeroPageX 0x10)) = false := by
  decide

theorem test_wf_refuses_write_forms :
    Instr.wf .off (.sta (.zeroPageY 0x10)) = false ∧ Instr.wf .off (.stx (.zeroPageX 0x10)) = false ∧
    Instr.wf .off (.sty (.zeroPageY 0x10)) = false ∧ Instr.wf .off (.asl (.mem (.absoluteY 0x1234))) = false ∧
    Instr.wf .off (.lsr (.mem (.zeroPageY 0x10))) = false ∧ Instr.wf .off (.rol (.mem (.indexedIndirect 0x10))) = false ∧
    Instr.wf .off (.ror (.mem (.indirectIndexed 0x10))) = false ∧ Instr.wf .off (.inc (.absoluteY 0x1234)) = false ∧
    Instr.wf .off (.dec (.indexedIndirect 0x10)) = false := by decide

/-- The form is refused under nestest, and every unofficial term under off. -/
theorem test_wf_refuses_unofficial :
    Instr.wf .nestest (.nopU 0xEA .implied) = false ∧ Instr.wf .nestest (.nopU 0x80 .implied) = false ∧
    Instr.wf .off (.nopU 0x1A .implied) = false ∧ Instr.wf .nestest (.laxU (.absoluteX 0x1234)) = false ∧
    Instr.wf .off (.laxU (.zeroPage 0x10)) = false ∧ Instr.wf .nestest (.saxU (.zeroPageX 0x10)) = false ∧
    Instr.wf .off (.saxU (.zeroPage 0x10)) = false ∧ Instr.wf .off (.sbcU 0x01) = false ∧
    Instr.wf .nestest (.dcpU (.zeroPageY 0x10)) = false ∧ Instr.wf .off (.dcpU (.zeroPage 0x10)) = false ∧
    Instr.wf .nestest (.isbU (.zeroPageY 0x10)) = false ∧ Instr.wf .nestest (.sloU (.zeroPageY 0x10)) = false ∧
    Instr.wf .nestest (.rlaU (.zeroPageY 0x10)) = false ∧ Instr.wf .nestest (.sreU (.zeroPageY 0x10)) = false ∧
    Instr.wf .nestest (.rraU (.zeroPageY 0x10)) = false ∧ Instr.wf .off (.rraU (.zeroPage 0x10)) = false ∧
    Instr.wf .off (.unmapped 0xEA) = false ∧ Instr.wf .nestest (.unmapped 0x1A) = false := by decide

/-! ### Loads and stores (95_test_vectors.md, LS) -/

theorem test_lda_ls7 :
    after (fun t => (t.a, t.status, t.pc, t.cycles))
      { start 0x8000 [0xA1, 0xFE] with x := 0x01, ram := [(0x0000, 0x03), (0x0300, 0x42)] } =
      some (0x42, 0x24, 0x8002, 6) := by decide

theorem test_lda_ls8 :
    after (fun t => (t.a, t.status, t.pc, t.cycles))
      { start 0x8000 [0xB1, 0x10] with y := 0x20, ram := [(0x0010, 0xF0), (0x0011, 0x02), (0x0310, 0x99)] } =
      some (0x99, 0xA4, 0x8002, 6) := by decide

theorem test_ldx_ls10 :
    after (fun t => (t.x, t.status, t.pc, t.cycles))
      { start 0x8000 [0xB6, 0xFF] with y := 0x01, ram := [(0x0000, 0x81)] } =
      some (0x81, 0xA4, 0x8002, 4) := by decide

theorem test_ldx_ls11 :
    after (fun t => (t.status, t.pc, t.cycles))
      { start 0x8000 [0xBE, 0xF0, 0x02] with y := 0x20 } =
      some (0x26, 0x8003, 5) := by decide

theorem test_ldy_ls12 :
    after (fun t => (t.y, t.status, t.pc, t.cycles))
      { start 0x8000 [0xBC, 0xF0, 0x02] with x := 0x20, ram := [(0x0310, 0x7F)] } =
      some (0x7F, 0x24, 0x8003, 5) := by decide

theorem test_sta_ls14 :
    after (fun t => (t.read 0x0310, t.status, t.pc, t.cycles))
      { start 0x8000 [0x91, 0x10] with a := 0x22, y := 0x20, ram := [(0x0010, 0xF0), (0x0011, 0x02)] } =
      some (0x22, 0x24, 0x8002, 6) := by decide

theorem test_sta_ls18 :
    after (fun t => (t.status, t.pc, t.cycles))
      { start 0x8000 [0x8D, 0x00, 0x20] with a := 0x80 } =
      some (0x24, 0x8003, 4) := by decide

theorem test_stx_ls16 :
    after (fun t => (t.read 0x0001, t.status, t.pc, t.cycles))
      { start 0x8000 [0x96, 0xFF] with x := 0x44, y := 0x02 } =
      some (0x44, 0x24, 0x8002, 4) := by decide

theorem test_sty_ls17 :
    after (fun t => (t.read 0x0001, t.status, t.pc, t.cycles))
      { start 0x8000 [0x94, 0xFF] with x := 0x02, y := 0x45 } =
      some (0x45, 0x24, 0x8002, 4) := by decide

/-! ### Arithmetic, logic and compare (AL) -/

theorem test_adc_al14 :
    after (fun t => (t.a, t.status, t.pc, t.cycles))
      { start 0x8000 [0x69, 0x01] with a := 0x09, p := 0x2C } =
      some (0x0A, 0x2C, 0x8002, 2) := by decide

theorem test_adc_al15 :
    after (fun t => (t.a, t.status, t.pc, t.cycles))
      { start 0x8000 [0x79, 0xF0, 0x02] with a := 0x01, y := 0x20, ram := [(0x0310, 0x01)] } =
      some (0x02, 0x24, 0x8003, 5) := by decide

theorem test_sbc_al3 :
    after (fun t => (t.a, t.status, t.pc, t.cycles))
      (start 0x8000 [0xE9, 0x01]) =
      some (0xFE, 0xA4, 0x8002, 2) := by decide

theorem test_sbc_al16 :
    after (fun t => (t.a, t.status, t.pc, t.cycles))
      { start 0x8000 [0xF1, 0x10] with a := 0x05, y := 0x20, p := 0x25, ram := [(0x0010, 0xF0), (0x0011, 0x02), (0x0310, 0x06)] } =
      some (0xFF, 0xA4, 0x8002, 6) := by decide

theorem test_and_al4 :
    after (fun t => (t.a, t.status, t.pc, t.cycles))
      { start 0x8000 [0x29, 0x0F] with a := 0xF5 } =
      some (0x05, 0x24, 0x8002, 2) := by decide

theorem test_and_al17 :
    after (fun t => (t.a, t.status, t.pc, t.cycles))
      { start 0x8000 [0x3D, 0x00, 0x02] with a := 0xFF, x := 0x10, ram := [(0x0210, 0x3C)] } =
      some (0x3C, 0x24, 0x8003, 4) := by decide

theorem test_ora_al5 :
    after (fun t => (t.a, t.status, t.pc, t.cycles))
      { start 0x8000 [0x09, 0x80] with a := 0x01 } =
      some (0x81, 0xA4, 0x8002, 2) := by decide

theorem test_eor_al6 :
    after (fun t => (t.a, t.status, t.pc, t.cycles))
      { start 0x8000 [0x49, 0xFF] with a := 0xFF } =
      some (0x00, 0x26, 0x8002, 2) := by decide

theorem test_eor_al18 :
    after (fun t => (t.a, t.status, t.pc, t.cycles))
      { start 0x8000 [0x41, 0x20] with a := 0x0F, ram := [(0x0021, 0x03), (0x0300, 0xFF)] } =
      some (0xF0, 0xA4, 0x8002, 6) := by decide

theorem test_cmp_al8 :
    after (fun t => (t.status, t.pc, t.cycles))
      { start 0x8000 [0xC9, 0x41] with a := 0x40 } =
      some (0xA4, 0x8002, 2) := by decide

theorem test_cmp_al9 :
    after (fun t => (t.status, t.pc, t.cycles))
      { start 0x8000 [0xC9, 0x00] with a := 0x80 } =
      some (0xA5, 0x8002, 2) := by decide

theorem test_cpx_al10 :
    after (fun t => (t.status, t.pc, t.cycles))
      { start 0x8000 [0xE0, 0x10] with x := 0x20 } =
      some (0x25, 0x8002, 2) := by decide

theorem test_cpy_al11 :
    after (fun t => (t.status, t.pc, t.cycles))
      { start 0x8000 [0xC4, 0x10] with ram := [(0x0010, 0x01)] } =
      some (0xA4, 0x8002, 3) := by decide

theorem test_bit_al12 :
    after (fun t => (t.status, t.pc, t.cycles))
      { start 0x8000 [0x24, 0x10] with a := 0x01, ram := [(0x0010, 0xC0)] } =
      some (0xE6, 0x8002, 3) := by decide

theorem test_bit_al13 :
    after (fun t => (t.status, t.pc, t.cycles))
      (start 0x8000 [0x2C, 0x02, 0x20]) =
      some (0xE6, 0x8003, 4) := by decide

/-! ### Shifts, rotates, increments and decrements (SH) -/

theorem test_asl_sh2 :
    after (fun t => (t.read 0x0010, t.status, t.pc, t.cycles))
      { start 0x8000 [0x06, 0x10] with ram := [(0x0010, 0x80)] } =
      some (0x00, 0x27, 0x8002, 5) := by decide

theorem test_asl_sh3 :
    after (fun t => (t.read 0x0310, t.status, t.pc, t.cycles))
      { start 0x8000 [0x1E, 0xF0, 0x02] with x := 0x20, ram := [(0x0310, 0x01)] } =
      some (0x02, 0x24, 0x8003, 7) := by decide

theorem test_lsr_sh4 :
    after (fun t => (t.a, t.status, t.pc, t.cycles))
      { start 0x8000 [0x4A] with a := 0x01 } =
      some (0x00, 0x27, 0x8001, 2) := by decide

theorem test_lsr_sh5 :
    after (fun t => (t.read 0x0010, t.status, t.pc, t.cycles))
      { start 0x8000 [0x56, 0x0F] with x := 0x01, ram := [(0x0010, 0x02)] } =
      some (0x01, 0x24, 0x8002, 6) := by decide

theorem test_rol_sh6 :
    after (fun t => (t.a, t.status, t.pc, t.cycles))
      { start 0x8000 [0x2A] with a := 0x80 } =
      some (0x00, 0x27, 0x8001, 2) := by decide

theorem test_rol_sh7 :
    after (fun t => (t.read 0x0200, t.status, t.pc, t.cycles))
      { start 0x8000 [0x2E, 0x00, 0x02] with p := 0x25 } =
      some (0x01, 0x24, 0x8003, 6) := by decide

theorem test_ror_sh8 :
    after (fun t => (t.a, t.status, t.pc, t.cycles))
      { start 0x8000 [0x6A] with a := 0x01, p := 0x25 } =
      some (0x80, 0xA5, 0x8001, 2) := by decide

theorem test_ror_sh9 :
    after (fun t => (t.read 0x0010, t.status, t.pc, t.cycles))
      { start 0x8000 [0x66, 0x10] with ram := [(0x0010, 0x01)] } =
      some (0x00, 0x27, 0x8002, 5) := by decide

theorem test_inc_sh10 :
    after (fun t => (t.read 0x0010, t.status, t.pc, t.cycles))
      { start 0x8000 [0xE6, 0x10] with p := 0x25, ram := [(0x0010, 0xFF)] } =
      some (0x00, 0x27, 0x8002, 5) := by decide

theorem test_inc_sh12 :
    after (fun t => (t.status, t.pc, t.cycles))
      (start 0x8000 [0xEE, 0x00, 0x80]) =
      some (0xA4, 0x8003, 6) := by decide

theorem test_dec_sh13 :
    after (fun t => (t.read 0x0010, t.status, t.pc, t.cycles))
      (start 0x8000 [0xC6, 0x10]) =
      some (0xFF, 0xA4, 0x8002, 5) := by decide

theorem test_dec_sh14 :
    after (fun t => (t.read 0x0200, t.status, t.pc, t.cycles))
      { start 0x8000 [0xDE, 0xFF, 0x01] with x := 0x01, ram := [(0x0200, 0x01)] } =
      some (0x00, 0x26, 0x8003, 7) := by decide

theorem test_inx_sh15 :
    after (fun t => (t.x, t.status, t.pc, t.cycles))
      { start 0x8000 [0xE8] with x := 0xFF } =
      some (0x00, 0x26, 0x8001, 2) := by decide

theorem test_iny_sh16 :
    after (fun t => (t.y, t.status, t.pc, t.cycles))
      { start 0x8000 [0xC8] with y := 0x7F } =
      some (0x80, 0xA4, 0x8001, 2) := by decide

theorem test_dex_sh17 :
    after (fun t => (t.x, t.status, t.pc, t.cycles))
      (start 0x8000 [0xCA]) =
      some (0xFF, 0xA4, 0x8001, 2) := by decide

theorem test_dey_sh18 :
    after (fun t => (t.y, t.status, t.pc, t.cycles))
      { start 0x8000 [0x88] with y := 0x01 } =
      some (0x00, 0x26, 0x8001, 2) := by decide

/-! ### Branches (E4, BR), jumps, subroutines and BRK (JP) -/

theorem test_bcc_bcc_n :
    after (fun t => (t.status, t.pc, t.cycles))
      { start 0x8000 [0x90, 0x10] with p := 0x25 } =
      some (0x25, 0x8002, 2) := by decide

theorem test_bcc_bcc_x :
    after (fun t => (t.status, t.pc, t.cycles))
      (start 0x80F0 [0x90, 0x7F]) =
      some (0x24, 0x8171, 4) := by decide

theorem test_bcs_bcs_n :
    after (fun t => (t.status, t.pc, t.cycles))
      (start 0x8000 [0xB0, 0x10]) =
      some (0x24, 0x8002, 2) := by decide

theorem test_bcs_bcs_t :
    after (fun t => (t.status, t.pc, t.cycles))
      { start 0x8000 [0xB0, 0x10] with p := 0x25 } =
      some (0x25, 0x8012, 3) := by decide

theorem test_beq_beq_n :
    after (fun t => (t.status, t.pc, t.cycles))
      (start 0x8000 [0xF0, 0x10]) =
      some (0x24, 0x8002, 2) := by decide

theorem test_beq_br3 :
    after (fun t => (t.status, t.pc, t.cycles))
      { start 0xFFF0 [0xF0, 0x7F] with p := 0x26 } =
      some (0x26, 0x0071, 4) := by decide

theorem test_bne_bne_n :
    after (fun t => (t.status, t.pc, t.cycles))
      { start 0x8000 [0xD0, 0x10] with p := 0x26 } =
      some (0x26, 0x8002, 2) := by decide

theorem test_bne_br1 :
    after (fun t => (t.status, t.pc, t.cycles))
      (start 0x8010 [0xD0, 0xFE]) =
      some (0x24, 0x8010, 3) := by decide

theorem test_bmi_bmi_n :
    after (fun t => (t.status, t.pc, t.cycles))
      (start 0x8000 [0x30, 0x10]) =
      some (0x24, 0x8002, 2) := by decide

theorem test_bmi_br2 :
    after (fun t => (t.status, t.pc, t.cycles))
      { start 0x8100 [0x30, 0x80] with p := 0xA4 } =
      some (0xA4, 0x8082, 4) := by decide

theorem test_bpl_bpl_n :
    after (fun t => (t.status, t.pc, t.cycles))
      { start 0x8000 [0x10, 0x10] with p := 0xA4 } =
      some (0xA4, 0x8002, 2) := by decide

theorem test_bpl_br4 :
    after (fun t => (t.status, t.pc, t.cycles))
      (start 0x80FD [0x10, 0x05]) =
      some (0x24, 0x8104, 4) := by decide

theorem test_bvc_bvc_n :
    after (fun t => (t.status, t.pc, t.cycles))
      { start 0x8000 [0x50, 0x10] with p := 0x64 } =
      some (0x64, 0x8002, 2) := by decide

theorem test_bvc_bvc_t :
    after (fun t => (t.status, t.pc, t.cycles))
      (start 0x8000 [0x50, 0x10]) =
      some (0x24, 0x8012, 3) := by decide

theorem test_bvs_bvs_n :
    after (fun t => (t.status, t.pc, t.cycles))
      (start 0x8000 [0x70, 0x10]) =
      some (0x24, 0x8002, 2) := by decide

theorem test_bvs_bvs_x :
    after (fun t => (t.status, t.pc, t.cycles))
      { start 0x80F0 [0x70, 0x7F] with p := 0x64 } =
      some (0x64, 0x8171, 4) := by decide

theorem test_jmp_jp2 :
    after (fun t => (t.status, t.pc, t.cycles))
      { start 0x8000 [0x6C, 0x00, 0x02] with ram := [(0x0200, 0x78), (0x0201, 0x56)] } =
      some (0x24, 0x5678, 5) := by decide

theorem test_jmp_jp3 :
    after (fun t => (t.status, t.pc, t.cycles))
      { start 0x8000 [0x6C, 0xFF, 0x02] with ram := [(0x0200, 0x40), (0x02FF, 0x80), (0x0300, 0x50)] } =
      some (0x24, 0x4080, 5) := by decide

theorem test_jsr_jp5 :
    after (fun t => (t.sp, t.read 0x01FC, t.read 0x01FD, t.status, t.pc, t.cycles))
      (start 0x8000 [0x20, 0x00, 0x90]) =
      some (0xFB, 0x02, 0x80, 0x24, 0x9000, 6) := by decide

theorem test_jsr_jp6 :
    after (fun t => (t.sp, t.read 0x0100, t.read 0x01FF, t.status, t.pc, t.cycles))
      { start 0x8000 [0x20, 0x00, 0x90] with sp := 0x00 } =
      some (0xFE, 0x80, 0x02, 0x24, 0x9000, 6) := by decide

theorem test_rts_jp7 :
    after (fun t => (t.sp, t.status, t.pc, t.cycles))
      { start 0x8000 [0x60] with sp := 0xFB, ram := [(0x01FC, 0x02), (0x01FD, 0x80)] } =
      some (0xFD, 0x24, 0x8003, 6) := by decide

theorem test_rts_jp8 :
    after (fun t => (t.sp, t.status, t.pc, t.cycles))
      { start 0x8000 [0x60] with sp := 0xFB, ram := [(0x01FC, 0xFF), (0x01FD, 0xFF)] } =
      some (0xFD, 0x24, 0x0000, 6) := by decide

theorem test_rti_jp9 :
    after (fun t => (t.sp, t.status, t.pc, t.cycles))
      { start 0x8000 [0x40] with sp := 0xFA, ram := [(0x01FB, 0xC3), (0x01FC, 0x34), (0x01FD, 0x12)] } =
      some (0xFD, 0xE3, 0x1234, 6) := by decide

theorem test_rti_jp10 :
    after (fun t => (t.sp, t.status, t.pc, t.cycles))
      { start 0x8000 [0x40] with p := 0x34, sp := 0xFA, ram := [(0x01FD, 0x90)] } =
      some (0xFD, 0x30, 0x9000, 6) := by decide

theorem test_brk_jp11 :
    after (fun t => (t.sp, t.read 0x01FB, t.read 0x01FC, t.read 0x01FD, t.status, t.pc, t.cycles))
      (begin 0x8000 [(0x0001, 0xEA), (0x7FFF, 0x90)]) =
      some (0xFA, 0x34, 0x02, 0x80, 0x24, 0x9000, 7) := by decide

theorem test_brk_jp12 :
    after (fun t => (t.sp, t.read 0x0100, t.read 0x0101, t.read 0x01FF, t.status, t.pc, t.cycles))
      { begin 0x8000 [(0x0001, 0xEA), (0x7FFF, 0x90)] with p := 0xE3, sp := 0x01 } =
      some (0xFE, 0x02, 0x80, 0xF3, 0xE7, 0x9000, 7) := by decide

/-! ### Stack, flags, transfers, NOP (ST, FL, TR, NP) -/

theorem test_pha_st2 :
    after (fun t => (t.sp, t.read 0x0100, t.status, t.pc, t.cycles))
      { start 0x8000 [0x48] with a := 0x5A, sp := 0x00 } =
      some (0xFF, 0x5A, 0x24, 0x8001, 3) := by decide

theorem test_php_st4 :
    after (fun t => (t.sp, t.read 0x01FD, t.status, t.pc, t.cycles))
      { start 0x8000 [0x08] with p := 0xE7 } =
      some (0xFC, 0xF7, 0xE7, 0x8001, 3) := by decide

theorem test_php_st3 :
    after (fun t => (t.sp, t.read 0x01FD, t.status, t.pc, t.cycles))
      (start 0x8000 [0x08]) =
      some (0xFC, 0x34, 0x24, 0x8001, 3) := by decide

theorem test_pla_st5 :
    after (fun t => (t.sp, t.status, t.pc, t.cycles))
      { start 0x8000 [0x68] with sp := 0xFC } =
      some (0xFD, 0x26, 0x8001, 4) := by decide

theorem test_pla_st6 :
    after (fun t => (t.a, t.sp, t.status, t.pc, t.cycles))
      { start 0x8000 [0x68] with sp := 0xFF, ram := [(0x0100, 0x80)] } =
      some (0x80, 0x00, 0xA4, 0x8001, 4) := by decide

theorem test_plp_st7 :
    after (fun t => (t.sp, t.status, t.pc, t.cycles))
      { start 0x8000 [0x28] with sp := 0xFC, ram := [(0x01FD, 0xFF)] } =
      some (0xFD, 0xEF, 0x8001, 4) := by decide

theorem test_plp_st8 :
    after (fun t => (t.sp, t.status, t.pc, t.cycles))
      { start 0x8000 [0x28] with p := 0xE7, sp := 0xFC } =
      some (0xFD, 0x20, 0x8001, 4) := by decide

theorem test_clc_fl1 :
    after (fun t => (t.status, t.pc, t.cycles))
      { start 0x8000 [0x18] with p := 0x25 } =
      some (0x24, 0x8001, 2) := by decide

theorem test_sec_fl2 :
    after (fun t => (t.status, t.pc, t.cycles))
      (start 0x8000 [0x38]) =
      some (0x25, 0x8001, 2) := by decide

theorem test_cli_fl3 :
    after (fun t => (t.status, t.pc, t.cycles))
      (start 0x8000 [0x58]) =
      some (0x20, 0x8001, 2) := by decide

theorem test_sei_fl4 :
    after (fun t => (t.status, t.pc, t.cycles))
      { start 0x8000 [0x78] with p := 0x20 } =
      some (0x24, 0x8001, 2) := by decide

theorem test_cld_fl5 :
    after (fun t => (t.status, t.pc, t.cycles))
      { start 0x8000 [0xD8] with p := 0x2C } =
      some (0x24, 0x8001, 2) := by decide

theorem test_sed_fl6 :
    after (fun t => (t.status, t.pc, t.cycles))
      (start 0x8000 [0xF8]) =
      some (0x2C, 0x8001, 2) := by decide

theorem test_clv_fl7 :
    after (fun t => (t.status, t.pc, t.cycles))
      { start 0x8000 [0xB8] with p := 0x64 } =
      some (0x24, 0x8001, 2) := by decide

theorem test_tax_tr1 :
    after (fun t => (t.x, t.status, t.pc, t.cycles))
      { start 0x8000 [0xAA] with a := 0x80 } =
      some (0x80, 0xA4, 0x8001, 2) := by decide

theorem test_tay_tr2 :
    after (fun t => (t.y, t.status, t.pc, t.cycles))
      { start 0x8000 [0xA8] with y := 0x12 } =
      some (0x00, 0x26, 0x8001, 2) := by decide

theorem test_txa_tr3 :
    after (fun t => (t.a, t.status, t.pc, t.cycles))
      { start 0x8000 [0x8A] with a := 0xFF, x := 0x01 } =
      some (0x01, 0x24, 0x8001, 2) := by decide

theorem test_tya_tr4 :
    after (fun t => (t.a, t.status, t.pc, t.cycles))
      { start 0x8000 [0x98] with y := 0xFF } =
      some (0xFF, 0xA4, 0x8001, 2) := by decide

theorem test_tsx_tr5 :
    after (fun t => (t.status, t.pc, t.cycles))
      { start 0x8000 [0xBA] with sp := 0x00 } =
      some (0x26, 0x8001, 2) := by decide

theorem test_txs_tr6 :
    after (fun t => (t.sp, t.status, t.pc, t.cycles))
      { start 0x8000 [0x9A] with p := 0xA4 } =
      some (0x00, 0xA4, 0x8001, 2) := by decide

theorem test_nop_np1 :
    after (fun t => (t.status, t.pc, t.cycles))
      (start 0x8000 [0xEA]) =
      some (0x24, 0x8001, 2) := by decide

/-! ### Unofficial opcodes (UO) and decode failures (DF) -/

theorem test_nopU_uo3 :
    after (fun t => (t.status, t.pc, t.cycles))
      { start 0x8000 [0x1C, 0xF0, 0x12] with x := 0x20, params := mapped } =
      some (0x24, 0x8003, 5) := by decide

theorem test_nopU_uo4 :
    after (fun t => (t.status, t.pc, t.cycles))
      { start 0x8000 [0x04, 0x10] with params := mapped } =
      some (0x24, 0x8002, 3) := by decide

theorem test_laxU_uo5 :
    after (fun t => (t.a, t.x, t.status, t.pc, t.cycles))
      { start 0x8000 [0xA7, 0x10] with ram := [(0x0010, 0x80)], params := mapped } =
      some (0x80, 0x80, 0xA4, 0x8002, 3) := by decide

theorem test_laxU_uo6 :
    after (fun t => (t.status, t.pc, t.cycles))
      { start 0x8000 [0xB3, 0x10] with y := 0x20, ram := [(0x0010, 0xF0), (0x0011, 0x02)], params := mapped } =
      some (0x26, 0x8002, 6) := by decide

theorem test_saxU_uo7 :
    after (fun t => (t.read 0x0010, t.status, t.pc, t.cycles))
      { start 0x8000 [0x87, 0x10] with a := 0xF0, x := 0x3C, params := mapped } =
      some (0x30, 0x24, 0x8002, 3) := by decide

theorem test_sbcU_uo8 :
    after (fun t => (t.a, t.status, t.pc, t.cycles))
      { start 0x8000 [0xEB, 0x01] with a := 0x10, p := 0x25, params := mapped } =
      some (0x0F, 0x25, 0x8002, 2) := by decide

theorem test_dcpU_uo9 :
    after (fun t => (t.read 0x0010, t.status, t.pc, t.cycles))
      { start 0x8000 [0xC7, 0x10] with a := 0x40, ram := [(0x0010, 0x41)], params := mapped } =
      some (0x40, 0x27, 0x8002, 5) := by decide

theorem test_dcpU_uo16 :
    after (fun t => (t.read 0x0310, t.status, t.pc, t.cycles))
      { start 0x8000 [0xD3, 0x10] with y := 0x20, ram := [(0x0010, 0xF0), (0x0011, 0x02), (0x0310, 0x01)], params := mapped } =
      some (0x00, 0x27, 0x8002, 8) := by decide

theorem test_isbU_uo10 :
    after (fun t => (t.a, t.read 0x0010, t.status, t.pc, t.cycles))
      { start 0x8000 [0xE7, 0x10] with a := 0x20, p := 0x25, ram := [(0x0010, 0x0F)], params := mapped } =
      some (0x10, 0x10, 0x25, 0x8002, 5) := by decide

theorem test_sloU_uo11 :
    after (fun t => (t.a, t.read 0x0010, t.status, t.pc, t.cycles))
      { start 0x8000 [0x07, 0x10] with a := 0x10, ram := [(0x0010, 0x81)], params := mapped } =
      some (0x12, 0x02, 0x25, 0x8002, 5) := by decide

theorem test_sloU_uo15 :
    after (fun t => (t.a, t.read 0x0310, t.status, t.pc, t.cycles))
      { start 0x8000 [0x1F, 0xF0, 0x02] with x := 0x20, ram := [(0x0310, 0x01)], params := mapped } =
      some (0x02, 0x02, 0x24, 0x8003, 7) := by decide

theorem test_rlaU_uo12 :
    after (fun t => (t.a, t.read 0x0010, t.status, t.pc, t.cycles))
      { start 0x8000 [0x27, 0x10] with a := 0xFF, p := 0x25, ram := [(0x0010, 0x40)], params := mapped } =
      some (0x81, 0x81, 0xA4, 0x8002, 5) := by decide

theorem test_sreU_uo13 :
    after (fun t => (t.a, t.read 0x0010, t.status, t.pc, t.cycles))
      { start 0x8000 [0x47, 0x10] with a := 0x01, ram := [(0x0010, 0x03)], params := mapped } =
      some (0x00, 0x01, 0x27, 0x8002, 5) := by decide

theorem test_rraU_uo14 :
    after (fun t => (t.a, t.read 0x0010, t.status, t.pc, t.cycles))
      { start 0x8000 [0x67, 0x10] with a := 0x10, ram := [(0x0010, 0x03)], params := mapped } =
      some (0x12, 0x01, 0x24, 0x8002, 5) := by decide

theorem test_unmapped_df1 :
    after (fun t => (t.status, t.pc, t.cycles, t.halted))
      (start 0x8000 [0x1A]) =
      some (0x24, 0x8001, 0, true) := by decide

theorem test_unmapped_df2 :
    after (fun t => (t.status, t.pc, t.cycles, t.halted))
      (start 0x8000 [0x02]) =
      some (0x24, 0x8001, 0, true) := by decide

/-! ### Interrupts, reset and halt (95_test_vectors.md section 3, IN) -/

/-- The state of IN1 after power-on: NOP, CLI, NOP and the unmapped 0x02 at 0x8000, the vectors 0xA000, 0x8000 and
0x9000. -/
def booted : State :=
  State.powerOn [] (begin 0x0000 (Memory.ofBytes 0 [0xEA, 0x58, 0xEA, 0x02] ++
    Memory.ofBytes 0x7FFA [0x00, 0xA0, 0x00, 0x80, 0x00, 0x90]))

theorem test_power_on_in1 :
    (booted.a, booted.status, booted.sp, booted.pc, booted.cycles) = (0x00, 0x24, 0xFD, 0x8000, 7) := by decide

theorem test_nmi_in2 :
    after (fun t => (t.read 0x01FD, t.read 0x01FC, t.read 0x01FB, t.status, t.sp, t.pc, t.cycles, t.nmiPending))
      booted.requestNmi = some (0x80, 0x00, 0x24, 0x24, 0xFA, 0xA000, 14, false) := by rfl

theorem test_irq_masked_in3 :
    after (fun t => (t.status, t.sp, t.pc, t.cycles)) (booted.holdIrq true) = some (0x24, 0xFD, 0x8001, 9) := by decide

theorem test_irq_in4 :
    after (fun t => (t.read 0x01FB, t.status, t.sp, t.pc, t.cycles)) ({ booted with p := 0x20 }.holdIrq true) =
      some (0x20, 0x24, 0xFA, 0x9000, 14) := by decide

theorem test_nmi_before_irq_in5 :
    after (fun t => (t.status, t.pc, t.cycles, t.irq, t.nmiPending))
      ({ booted with p := 0x20 }.holdIrq true).requestNmi = some (0x24, 0xA000, 14, true, false) := by decide

theorem test_halted_ignores_nmi_in7 :
    after (fun t => (t.status, t.pc, t.cycles, t.halted, t.nmiPending))
      ({ booted with p := 0x20, pc := 0x8004, cycles := 13, halted := true }.requestNmi) =
        some (0x20, 0x8004, 13, true, true) := by decide

theorem test_reset_after_halt_in8 :
    ((fun t => (t.sp, t.status, t.pc, t.cycles, t.halted, t.nmiPending) : State → _)
      ({ booted with p := 0x20, pc := 0x8004, cycles := 13, halted := true, nmiPending := true }.resetCall)) =
        (0xFA, 0x24, 0x8000, 7, false, false) := by decide

theorem test_reset_keeps_registers_in9 :
    ((fun t => (t.a, t.x, t.y, t.p, t.sp, t.pc, t.cycles) : State → _)
      ({ booted with a := 0x11, x := 0x22, y := 0x33, sp := 0x10, p := 0xC3 }.resetCall)) =
        (0x11, 0x22, 0x33, 0xC7, 0x0D, 0x8000, 7) := by decide

theorem test_reset_wraps_sp_in10 : ({ booted with sp := 0x01 }.resetCall).sp = 0xFE := by decide

/-! ### The host's side -/

theorem test_host_calls :
    (booted.setCodeAddr 0x8002).pc = 0x8002 ∧ (booted.setBreakpoint (some 0x8001)).breakpoint = some 0x8001 ∧
    booted.getRegisters = { a := 0x00, x := 0x00, y := 0x00, pc := 0x8000, sp := 0xFD, status := 0x24 } ∧
    booted.getCycle = 7 ∧ (booted.loadCartridge Cartridge.blank).cart = Cartridge.blank := by decide

/-- A breakpoint at pc ends the run before the step, and success is that end alone (R248, R266). -/
theorem test_run_ends :
    runLoop 1 (booted.setBreakpoint (some 0x8000)) = .next (.atBreakpoint, booted.setBreakpoint (some 0x8000)) ∧
    runLoop 0 booted = .next (.outOfFuel, booted) ∧
    runLoop 1 { booted with pc := 0x8003 } = .next (.decodeFailed, { booted with pc := 0x8004, halted := true }) :=
  ⟨rfl, rfl, rfl⟩

/-- A ROM file that is malformed is refused (R53, R233). -/
theorem test_rom_file_refused :
    Cartridge.ofRom [0x4E, 0x45, 0x53] = .error .shortHeader ∧
    Cartridge.ofRom [0x4E, 0x45, 0x53, 0x1B, 1, 0, 0, 0, 0, 0, 0, 0, 0, 0, 0, 0] = .error .badMagic ∧
    Cartridge.ofRom [0x4E, 0x45, 0x53, 0x1A, 1, 0, 0, 0, 0, 0, 0, 0, 0, 0, 0, 0] = .error .shortPayload ∧
    Cartridge.ofRom [0x4E, 0x45, 0x53, 0x1A, 0, 0, 0, 0, 0, 0, 0, 0, 0, 0, 0, 0] = .error (.badBankCount 0) ∧
    Cartridge.ofRom [0x4E, 0x45, 0x53, 0x1A, 0, 0, 0x10, 0x40, 0, 0, 0, 0, 0, 0, 0, 0] =
      .error (.unregisteredMapper 0x41) := by decide

/-- A placed instruction is the one the next step fetches: at the reset state's pc, at a pc in ROM, at 0x0000 where
pc is in a window that holds no Byte, and an unofficial one. -/
theorem test_fetch_word :
    (State.reset.withFetchWord 16 0x2AA9).fetchInstr = .lda (.immediate 0x2A) ∧
    ((begin 0x8000 []).withFetchWord 24 0x1234AD).fetchInstr = .lda (.mem (.absolute 0x1234)) ∧
    ((begin 0x3FFF []).withFetchWord 8 0xEA).fetchInstr = .nop ∧
    (State.reset.withFetchWord 8 0xA7).fetchInstr = .laxU (.zeroPage 0x00) ∧
    after (fun t => (t.a, t.pc)) (State.reset.withFetchWord 16 0x2AA9) = some (0x2A, 0x0002) := by decide

/-- A cartridge device that is not NROM takes a store to its range with cart_write (R50). -/
theorem test_device_store :
    exec (.sta (.absolute 0x8000)) { booted with a := 0x05, cart := Cartridge.custom } =
      .next { booted with
        a := 0x05, pc := 0x8003, cycles := 11
        cart := .device (Config.cartWrite Config.cartInit 0x8000 0x05) } := rfl

/-- It answers a load from its range with cart_read, in the state that earlier stores left (R50). -/
theorem test_device_load :
    ∃ t, exec (.lda (.mem (.absolute 0xC000)))
        { booted with cart := .device (Config.cartWrite Config.cartInit 0x8000 0x05) } = .next t ∧
      t.a = Config.cartRead (Config.cartWrite Config.cartInit 0x8000 0x05) 0xC000 := ⟨_, rfl, rfl⟩

/-! ### Witnesses: for each obligation with hypotheses, a state and operands that meet them -/

theorem witness_DecodeInvertsEncode :
    Instr.wf .off (.lda (.immediate 0xFF)) = true ∧ Instr.wf .nestest (.sloU (.absoluteX 0xFFFF)) = true ∧
    Instr.wf .off (.unmapped 0xFF) = true ∧ Instr.wf .nestest (.unmapped 0x02) = true := by decide

theorem witness_EncodeInvertsDecode :
    decode .off [0xA9, 0x2A, 0xEA] = .ok (.lda (.immediate 0x2A), [0xEA]) := by decide

theorem witness_CyclesFollowTheOpcodeMap : ∃ e, lookup .off 0xBD = some e ∧ e.mode ≠ .relative :=
  ⟨_, rfl, by decide⟩

theorem witness_StepRunsDecodedInstruction :
    RunsInstruction booted ∧ RunsInstruction (booted.holdIrq true) ∧
    decode .off [booted.read booted.pc, booted.read (booted.pc + 1), booted.read (booted.pc + 2)] =
      .ok (.nop, [0x58, 0xEA]) := by unfold RunsInstruction; decide

theorem witness_HaltedStepChangesNothing : { booted with halted := true }.halted = true := by decide

theorem witness_NmiEntersThroughItsVector :
    booted.requestNmi.halted = false ∧ booted.requestNmi.nmiPending = true := by decide

theorem witness_IrqEntersThroughItsVector :
    let s := { booted with p := 0x20, irq := true }
    s.halted = false ∧ s.nmiPending = false ∧ s.irq = true ∧ s.flag .i = false := by decide

/-- In both settings of DECODE_FAIL_PC_ROLLBACK. -/
theorem witness_DecodeFailureHaltsTheCore :
    let s := { booted with pc := 0x8003 }
    let r := { s with params := { decodeFailPcRollback := true } }
    (RunsInstruction s ∧ lookup s.params.unofficial (s.read s.pc) = none) ∧
    (RunsInstruction r ∧ lookup r.params.unofficial (r.read r.pc) = none) :=
  ⟨⟨by unfold RunsInstruction; decide, rfl⟩, by unfold RunsInstruction; decide, rfl⟩

theorem sound_booted : Sound booted := by refine ⟨?_, ?_, ?_⟩ <;> decide

theorem witness_StepKeepsSound :
    Sound booted ∧ step booted = .next { booted with pc := 0x8001, cycles := 9 } := ⟨sound_booted, rfl⟩

theorem witness_StepKeepsHostSide : step booted = .next { booted with pc := 0x8001, cycles := 9 } := rfl

theorem witness_StepKeepsBreakBit :
    step { booted with p := 0x10 } = .next { booted with p := 0x10, pc := 0x8001, cycles := 9 } := rfl

/-- A retiring instruction and a decode failure. -/
theorem witness_StepChargesTwoToEightCycles :
    (booted.halted = false ∧ step booted = .next { booted with pc := 0x8001, cycles := 9 }) ∧
    step { booted with pc := 0x8003 } = .next { booted with pc := 0x8004, halted := true } :=
  ⟨⟨rfl, rfl⟩, rfl⟩

theorem witness_DecimalFlagIsInert :
    Instr.clc ≠ .php ∧ Instr.clc ≠ .brk ∧
    Instr.clc ∉ [Instr.sed, .cld, .plp, .rti] ∧
    exec .clc booted = .next { booted with pc := 0x8001, cycles := 9, p := 0x24 } :=
  ⟨by decide, by decide, by decide, rfl⟩

/-- Each of the three ends of a run. -/
theorem witness_RunEndsAsItSays :
    Running booted ∧ Running (booted.setBreakpoint (some 0x8000)) ∧ Running { booted with pc := 0x8003 } ∧
    runLoop 0 booted = .next (.outOfFuel, booted) ∧
    runLoop 1 (booted.setBreakpoint (some 0x8000)) = .next (.atBreakpoint, booted.setBreakpoint (some 0x8000)) ∧
    runLoop 1 { booted with pc := 0x8003 } = .next (.decodeFailed, { booted with pc := 0x8004, halted := true }) :=
  ⟨rfl, rfl, rfl, rfl, rfl, rfl⟩

theorem witness_RamIsMirroredFourTimes :
    Sound booted ∧ (0x0000#16).toNat < 0x2000 ∧ (0x1FFF#16).toNat < 0x2000 ∧
    (booted.write 0x1FFF 0xAB).read 0x07FF = 0xAB ∧ (booted.write 0x1FFF 0xAB).read 0x2000 = 0xFF :=
  ⟨sound_booted, by decide, by decide, by decide, by decide⟩

/-- The first and last address of each window. -/
theorem witness_StubWindowsReadAllOnes :
    (0x2000 ≤ (0x2000#16).toNat ∧ (0x2000#16).toNat < 0x4020) ∧
    (0x2000 ≤ (0x3FFF#16).toNat ∧ (0x3FFF#16).toNat < 0x4020) ∧
    (0x2000 ≤ (0x4000#16).toNat ∧ (0x4000#16).toNat < 0x4020) ∧
    (0x2000 ≤ (0x401F#16).toNat ∧ (0x401F#16).toNat < 0x4020) := by decide

theorem witness_SmallImageIsMirrored :
    { booted with cart := .nrom { banks := .one, prg := [] } }.cart = .nrom { banks := .one, prg := [] } ∧
    ({ banks := .one, prg := [] } : Nrom).banks = .one ∧ 0x3FFF < 0x4000 ∧ 0x4020 ≤ (0x4020#16).toNat ∧
    0x4020 ≤ (0xFFFF#16).toNat := by decide

theorem witness_BuiltCartridgeReadsItsImage :
    ((1 = 1 ∨ 1 = 2) ∧ (List.replicate 16384 (0 : Byte)).length = 1 * 16384) ∧
    ((2 = 1 ∨ 2 = 2) ∧ (List.replicate 32768 (0 : Byte)).length = 2 * 16384) ∧
    (0 ≠ 1 ∧ 0 ≠ 2) ∧ (3 ≠ 1 ∧ 3 ≠ 2) :=
  ⟨⟨.inl rfl, List.length_replicate⟩, ⟨.inr rfl, List.length_replicate⟩, by decide, by decide⟩

theorem witness_MapperIdJoinsNibbles :
    (0x41 : Byte) ≠ 0 ∧ ∃ h : RomHeader, h.flags6 = 0x1F ∧ h.flags7 = 0x4F ∧ h.mapperId = 0x41 :=
  ⟨by decide, ⟨0, 0, 0x1F, 0x4F, 0, 0, 0⟩, rfl, rfl, by decide⟩

/-- At the two wrapping pointers too. -/
theorem witness_PoppedWordIsPushedWord :
    Sound booted ∧ Sound { booted with sp := 0x00 } ∧ Sound { booted with sp := 0x01 } :=
  ⟨sound_booted, sound_booted, sound_booted⟩

theorem witness_StoredBytesAreFetched :
    Sound { booted with pc := 0x1FFD } ∧ { booted with pc := 0x1FFD }.pc.toNat + 2 < 0x2000 :=
  ⟨sound_booted, by decide⟩

theorem witness_StoresWriteEffectiveAddress :
    let m := Addr.absoluteX 0x02F0
    let s := { booted with a := 0xF0, x := 0x3C, y := 0x45 }
    let forms := [(Instr.sta m, s.a, Line.sta), (.stx m, s.x, Line.stx), (.sty m, s.y, Line.sty)]
    (Instr.sta m, 0xF0, Line.sta) ∈ forms ∧ (Instr.stx m, 0x3C, Line.stx) ∈ forms ∧
    (Instr.sty m, 0x45, Line.sty) ∈ forms := by decide

/-- After a PLP, and after an RTI, that clears I, with the `irq` input held. -/
theorem witness_TakesHeldIrq :
    let s := { booted with irq := true, p := 0x24, sp := 0xF8 }
    (∃ t, exec .plp s = .next t ∧ t.halted = false ∧ t.nmiPending = false ∧ t.irq = true ∧ t.flag .i = false) ∧
    ∃ t, exec .rti s = .next t ∧ t.halted = false ∧ t.nmiPending = false ∧ t.irq = true ∧ t.flag .i = false :=
  ⟨⟨_, rfl, by decide, by decide, by decide, by decide⟩, _, rfl, by decide, by decide, by decide, by decide⟩

/-- At the first and last address of the cartridge's range, and the last one below it. -/
theorem witness_CartridgeDeviceTakesItsWindow :
    { booted with cart := Cartridge.custom }.cart = .device Config.cartInit ∧ 0x4020 ≤ (0x4020#16).toNat ∧
    0x4020 ≤ (0xFFFF#16).toNat ∧ (0x401F#16).toNat < 0x4020 :=
  ⟨rfl, by decide, by decide, by decide⟩

/-- Each instruction whose effect on D, or whose sum, DecimalFlagIsInert names. -/
theorem witness_DecimalFlagClauses :
    let s := { booted with sp := 0xF8, ram := [(0x01F9, 0x08)] }
    (∃ t, exec .sed s = .next t) ∧ (∃ t, exec .cld s = .next t) ∧ (∃ t, exec .plp s = .next t) ∧
    (∃ t, exec .rti s = .next t) ∧ (∃ t, exec (.adc (.immediate 0x19)) s = .next t) ∧
    (∃ t, exec (.sbc (.immediate 0x19)) s = .next t) ∧ (∃ t, exec (.isbU (.zeroPage 0x10)) s = .next t) ∧
    ∃ t, exec (.rraU (.zeroPage 0x10)) s = .next t :=
  ⟨⟨_, rfl⟩, ⟨_, rfl⟩, ⟨_, rfl⟩, ⟨_, rfl⟩, ⟨_, rfl⟩, ⟨_, rfl⟩, ⟨_, rfl⟩, _, rfl⟩

/-- The zero_page_y forms there are. -/
theorem witness_ZeroPageModesStayInPageZero :
    Instr.wf .off (.ldx (.mem (.zeroPageY 0xFF))) = true ∧ Instr.wf .off (.stx (.zeroPageY 0xFF)) = true ∧
    Instr.wf .nestest (.laxU (.zeroPageY 0xFF)) = true ∧ Instr.wf .nestest (.saxU (.zeroPageY 0xFF)) = true := by
  decide

/-- A form of an opcode line, with its `+`, and a form the line does not hold. -/
theorem witness_Listed :
    (⟨.absoluteX, 0xBD, 4, true⟩ : Form) ∈ Line.lda ∧ (Instr.lda (.mem (.absoluteX 0x02F0))).mode = .absoluteX ∧
    ∀ f ∈ Line.lda, f.mode ≠ (Instr.lda (.mem (.zeroPageY 0x10))).mode := by decide

/-- The stored cell is one of the four mirrors, or none where the address is outside RAM; with a cartridge that is not
NROM a write to its range may reach any address of that range. -/
theorem witness_Stores :
    let device := { booted with cart := Cartridge.custom }
    booted.writeReaches 0x0310 0x0B10 = true ∧ booted.writeReaches 0x8000 0x8000 = false ∧
    device.writeReaches 0x8000 0x4020 = true ∧ device.writeReaches 0x8000 0x401F = false ∧
    device.writeReaches 0x401F 0x8000 = false ∧
    sameCell 0x0310 0x0B10 = true ∧ sameCell 0x0310 0x0311 = false ∧ sameCell 0x8000 0x8000 = false := by decide

theorem witness_SbcSubtractsWithBorrow (o : Src) (b : Byte) :
    (Instr.sbc o = .sbc o ∨ ∃ b, o = .immediate b ∧ Instr.sbc o = .sbcU b) ∧
    (Instr.sbcU b = .sbc (.immediate b) ∨ ∃ c, Src.immediate b = .immediate c ∧ Instr.sbcU b = .sbcU c) :=
  ⟨.inl rfl, .inr ⟨b, rfl, rfl⟩⟩

theorem witness_LogicCombinesBitwise (o : Src) :
    let meets (i : Instr) (f : Bool → Bool → Bool) :=
      (i = .and o ∧ f = Bool.and) ∨ (i = .ora o ∧ f = Bool.or) ∨ (i = .eor o ∧ f = Bool.xor)
    meets (.and o) Bool.and ∧ meets (.ora o) Bool.or ∧ meets (.eor o) Bool.xor :=
  ⟨.inl ⟨rfl, rfl⟩, .inr (.inl ⟨rfl, rfl⟩), .inr (.inr ⟨rfl, rfl⟩)⟩

theorem witness_CompareSetsFlagsOnly :
    let o := Src.immediate 0x40
    let s := { booted with a := 0x40, x := 0x41, y := 0x3F }
    let forms := [(Instr.cmp o, s.a, Line.cmp), (.cpx o, s.x, Line.cpx), (.cpy o, s.y, Line.cpy)]
    (Instr.cmp o, 0x40, Line.cmp) ∈ forms ∧ (Instr.cpx o, 0x41, Line.cpx) ∈ forms ∧
    (Instr.cpy o, 0x3F, Line.cpy) ∈ forms := by decide

/-- With C set and the operand 0x81, at the accumulator and in memory. -/
theorem witness_ShiftsMoveOneBit :
    let s := { booted with a := 0x81, p := 0x25, ram := [(0x0010, 0x81)] }
    let forms (o : Rmw) :=
      let v := rmwValue o s
      let c := (s.flag .c).toNat
      [(Instr.asl o, 2 * v.toNat % 256, decide (128 ≤ v.toNat), Line.asl),
       (.lsr o, v.toNat / 2, decide (v.toNat % 2 = 1), Line.lsr),
       (.rol o, (2 * v.toNat + c) % 256, decide (128 ≤ v.toNat), Line.rol),
       (.ror o, v.toNat / 2 + 128 * c, decide (v.toNat % 2 = 1), Line.ror)]
    let m := Rmw.mem (.zeroPage 0x10)
    (Instr.asl .accumulator, 0x02, true, Line.asl) ∈ forms .accumulator ∧
    (Instr.lsr m, 0x40, true, Line.lsr) ∈ forms m ∧ (Instr.rol m, 0x03, true, Line.rol) ∈ forms m ∧
    (Instr.ror .accumulator, 0xC0, true, Line.ror) ∈ forms .accumulator := by decide

/-- At the values that wrap. -/
theorem witness_IncDecMemoryByOne :
    let m := Addr.zeroPage 0x10
    let s := { booted with ram := [(0x0010, 0xFF)] }
    let forms (s : State) :=
      [(Instr.inc m, ((memValue m s).toNat + 1) % 256, Line.inc),
       (.dec m, ((memValue m s).toNat + 255) % 256, Line.dec)]
    (Instr.inc m, 0, Line.inc) ∈ forms s ∧ (Instr.dec m, 255, Line.dec) ∈ forms booted := by decide

theorem witness_BranchesFollowTheirFlag :
    let d : Byte := 0x80
    let forms := [(Instr.bcc d, Flag.c, false), (.bcs d, .c, true), (.beq d, .z, true), (.bne d, .z, false),
      (.bmi d, .n, true), (.bpl d, .n, false), (.bvc d, .v, false), (.bvs d, .v, true)]
    forms.length = 8 ∧ (Instr.bcc d, Flag.c, false) ∈ forms ∧ (Instr.bcs d, Flag.c, true) ∈ forms ∧
    (Instr.beq d, Flag.z, true) ∈ forms ∧ (Instr.bne d, Flag.z, false) ∈ forms ∧
    (Instr.bmi d, Flag.n, true) ∈ forms ∧ (Instr.bpl d, Flag.n, false) ∈ forms ∧
    (Instr.bvc d, Flag.v, false) ∈ forms ∧ (Instr.bvs d, Flag.v, true) ∈ forms := by decide

theorem witness_RtsReturnsPastPoppedWord : Sound booted ∧ Sound { booted with sp := 0x00 } := ⟨sound_booted, sound_booted⟩

theorem witness_BrkThenRtiComesBack : Sound booted ∧ Sound { booted with sp := 0x01 } := ⟨sound_booted, sound_booted⟩

theorem witness_PullsIncrementThenRead :
    Sound booted ∧ Sound { booted with p := 0xFF, sp := 0x00 } :=
  ⟨sound_booted, sound_booted.1, sound_booted.2.1, by decide⟩

theorem witness_PushesWriteThenDecrement :
    let forms := [(Instr.pha, booted.a, Line.pha), (.php, booted.status ||| 0x30, Line.php)]
    (Instr.pha, (0x00 : Byte), Line.pha) ∈ forms ∧ (Instr.php, (0x34 : Byte), Line.php) ∈ forms := by decide

theorem witness_FlagInstructionsWriteOneFlag :
    let forms := [(Instr.clc, Flag.c, false), (.sec, .c, true), (.cli, .i, false), (.sei, .i, true),
      (.cld, .d, false), (.sed, .d, true), (.clv, .v, false)]
    (Instr.clc, Flag.c, false) ∈ forms ∧ (Instr.sec, Flag.c, true) ∈ forms ∧ (Instr.cli, Flag.i, false) ∈ forms ∧
    (Instr.sei, Flag.i, true) ∈ forms ∧ (Instr.cld, Flag.d, false) ∈ forms ∧ (Instr.sed, Flag.d, true) ∈ forms ∧
    (Instr.clv, Flag.v, false) ∈ forms := by decide

/-- With C set and the operand 0x81. -/
theorem witness_ShiftedMemoryCombinesWithA :
    let m := Addr.zeroPage 0x10
    let s := { booted with p := 0x25, ram := [(0x0010, 0x81)] }
    let v := memValue m s
    let meets (i : Instr) (r : Nat) (carry : Bool) (f : Bool → Bool → Bool) :=
      (i = .sloU m ∧ r = 2 * v.toNat % 256 ∧ carry = decide (128 ≤ v.toNat) ∧ f = Bool.or) ∨
      (i = .rlaU m ∧ r = (2 * v.toNat + (s.flag .c).toNat) % 256 ∧ carry = decide (128 ≤ v.toNat) ∧ f = Bool.and) ∨
      (i = .sreU m ∧ r = v.toNat / 2 ∧ carry = decide (v.toNat % 2 = 1) ∧ f = Bool.xor)
    meets (.sloU m) 0x02 true Bool.or ∧ meets (.rlaU m) 0x03 true Bool.and ∧ meets (.sreU m) 0x40 true Bool.xor :=
  ⟨.inl ⟨rfl, rfl, rfl, rfl⟩, .inr (.inl ⟨rfl, rfl, rfl, rfl⟩), .inr (.inr ⟨rfl, rfl, rfl, rfl⟩)⟩

/-- The conditions inside a frame: a mirror of a stack cell is that cell, any other address is not. -/
theorem witness_frames :
    sameCell (stackAddr 0xFD) 0x01FD = true ∧ sameCell (stackAddr 0xFD) 0x19FD = true ∧
    sameCell (stackAddr 0xFD) 0x01FC = false ∧ sameCell (stackAddr 0x00) 0x0200 = false ∧
    sameCell (stackAddr 0xFD) 0x81FD = false := by decide

/-- A one-bank image. -/
theorem witness_MirroredHalves :
    { booted with cart := .nrom { banks := .one, prg := [(0x3FFF, 0xAB)] } }.read 0xBFFF = 0xAB ∧
    { booted with cart := .nrom { banks := .one, prg := [(0x3FFF, 0xAB)] } }.read 0xFFFF = 0xAB := by decide

end Sys2Proof.Tests
end

section
/-! PROOFS. The decimal flag (spec/10_state.md R30). Two facts carry the claim: an instruction that neither writes D nor
pushes P commutes with a write of D, and one that writes D answers the same state whatever D held. That the first
kind leaves D as it was is its commutation with the write of D's own value. -/

namespace Sys2Proof.Proofs.DecimalFlag

open Sys2Proof Sys2Proof.Machine

/-! ### Writes of one bit of P -/

/-- Each bit of P belongs to a flag (R25). -/
theorem exists_flag_bit : ∀ i < 8, ∃ g : Flag, g.bit = i
  | 0, _ => ⟨.c, rfl⟩
  | 1, _ => ⟨.z, rfl⟩
  | 2, _ => ⟨.i, rfl⟩
  | 3, _ => ⟨.d, rfl⟩
  | 4, _ => ⟨.b, rfl⟩
  | 5, _ => ⟨.u, rfl⟩
  | 6, _ => ⟨.v, rfl⟩
  | 7, _ => ⟨.n, rfl⟩
  | _ + 8, h => by omega

/-- Two Bytes with the same flags are one. -/
theorem eq_of_flag_bits {v w : Byte} (h : ∀ g : Flag, v.getLsbD g.bit = w.getLsbD g.bit) : v = w := by
  refine BitVec.eq_of_getLsbD_eq fun i hi => ?_
  obtain ⟨g, rfl⟩ := exists_flag_bit i hi
  exact h g

theorem putFlag_comm {f g : Flag} (h : f ≠ g) (v : Byte) (b c : Bool) :
    putFlag (putFlag v f b) g c = putFlag (putFlag v g c) f b := by
  refine eq_of_flag_bits fun k => ?_
  simp only [getLsbD_putFlag]
  by_cases hf : f = k
  · simp [← hf, h.symm]
  · simp [hf]

theorem putFlag_putFlag_same (v : Byte) (f : Flag) (b c : Bool) : putFlag (putFlag v f b) f c = putFlag v f c := by
  refine eq_of_flag_bits fun k => ?_
  simp only [getLsbD_putFlag]
  by_cases hf : f = k <;> simp [hf]

theorem putFlag_getLsbD (v : Byte) (f : Flag) : putFlag v f (v.getLsbD f.bit) = v := by
  refine eq_of_flag_bits fun k => ?_
  rw [getLsbD_putFlag]
  split
  · next hf => rw [hf]
  · rfl

variable (s : State) (b : Bool)

theorem setFlag_setFlag_same (f : Flag) (c : Bool) : (s.setFlag f b).setFlag f c = s.setFlag f c :=
  congrArg (fun p => { s with p := p }) (putFlag_putFlag_same s.p f b c)

/-- Writing the value D has changes nothing. -/
theorem setFlag_d_flag_d : s.setFlag .d (s.flag .d) = s := by
  have h : s.flag .d = s.p.getLsbD Flag.d.bit := by simp [State.flag, State.status, Flag.bit]
  exact congrArg (fun p => { s with p := p }) (h ▸ putFlag_getLsbD s.p .d)

/-- A write of D leaves every other flag as it was. -/
theorem flag_setFlag_d {g : Flag} (h : g ≠ .d) : (s.setFlag .d b).flag g = s.flag g := by
  rw [State.flag_setFlag, if_neg h.symm]
  cases g <;> simp

/-! ### The state operations commute with a write of D -/

theorem setFlag_d_setFlag {f : Flag} (h : f ≠ .d) (c : Bool) :
    (s.setFlag .d b).setFlag f c = (s.setFlag f c).setFlag .d b :=
  congrArg (fun p => { s with p := p }) (putFlag_comm h.symm s.p b c)

theorem setFlag_d_write (e : Word) (v : Byte) : (s.setFlag .d b).write e v = (s.write e v).setFlag .d b := by
  unfold State.write
  split
  · rfl
  · split <;> rfl

theorem setFlag_d_setNZ (v : Byte) : (s.setFlag .d b).setNZ v = (s.setNZ v).setFlag .d b := by
  unfold State.setNZ
  rw [setFlag_d_setFlag _ _ (by decide), setFlag_d_setFlag _ _ (by decide)]

theorem setFlag_d_loadA (v : Byte) : (s.setFlag .d b).loadA v = (s.loadA v).setFlag .d b :=
  setFlag_d_setNZ { s with a := v } b v

theorem setFlag_d_loadX (v : Byte) : (s.setFlag .d b).loadX v = (s.loadX v).setFlag .d b :=
  setFlag_d_setNZ { s with x := v } b v

theorem setFlag_d_loadY (v : Byte) : (s.setFlag .d b).loadY v = (s.loadY v).setFlag .d b :=
  setFlag_d_setNZ { s with y := v } b v

theorem setFlag_d_compare (r m : Byte) : (s.setFlag .d b).compare r m = (s.compare r m).setFlag .d b := by
  unfold State.compare
  rw [setFlag_d_setFlag _ _ (by decide), setFlag_d_setFlag _ _ (by decide), setFlag_d_setFlag _ _ (by decide)]

theorem setFlag_d_testBits (m : Byte) : (s.setFlag .d b).testBits m = (s.testBits m).setFlag .d b := by
  unfold State.testBits
  rw [setFlag_d_setFlag _ _ (by decide), setFlag_d_setFlag _ _ (by decide), setFlag_d_setFlag _ _ (by decide)]
  rfl

/-- `AddWithCarry` as two flag writes and a load (R130). -/
theorem addWithCarry_eq (m : Byte) :
    s.addWithCarry m = ((s.setFlag .c (addBytes s.a m (s.flag .c)).carry).setFlag .v
      (addBytes s.a m (s.flag .c)).overflow).loadA (addBytes s.a m (s.flag .c)).result := rfl

/-- `AddWithCarry` neither reads nor writes D (R130). -/
theorem setFlag_d_addWithCarry (m : Byte) :
    (s.setFlag .d b).addWithCarry m = (s.addWithCarry m).setFlag .d b := by
  rw [addWithCarry_eq, addWithCarry_eq, flag_setFlag_d _ _ (by decide), setFlag_d_setFlag _ _ (by decide),
    setFlag_d_setFlag _ _ (by decide), setFlag_d_loadA]
  rfl

theorem setFlag_d_push (v : Byte) : (s.setFlag .d b).push v = (s.push v).setFlag .d b :=
  congrArg (fun t : State => { t with sp := s.sp - 1 }) (setFlag_d_write s b (stackAddr s.sp) v)

theorem setFlag_d_pushWord (w : Word) : (s.setFlag .d b).pushWord w = (s.pushWord w).setFlag .d b := by
  unfold State.pushWord
  rw [setFlag_d_push, setFlag_d_push]

theorem setFlag_d_rmwStore (o : Rmw) (before : State) (r : Byte) :
    rmwStore o (before.setFlag .d b) r (s.setFlag .d b) = (rmwStore o before r s).setFlag .d b := by
  cases o with
  | accumulator => rfl
  | mem m => exact setFlag_d_write s b (effectiveAddress m before) r

/-- P pulled from a Byte takes none of the D it overwrites (R193). -/
theorem setFlag_d_pullStatus (v : Byte) : (s.setFlag .d b).pullStatus v = s.pullStatus v := by
  have h : ∀ (p : Byte) (c : Bool), (putFlag p .d c ||| 0x20#8) &&& 0x10#8 = (p ||| 0x20#8) &&& 0x10#8 := by decide
  unfold State.pullStatus State.status
  rw [State.setFlag_p, h]
  rfl

/-! ### The shapes of a meaning

What a meaning reads of its state (a branch's condition, a rotate's carry) is the primed argument, equal to the plain
one since D is not read. -/

variable {s b} {t : State}

theorem retire_setFlag_d {mode : Mode} {cost : Nat} {f : State → State} (ht : retire mode cost f s = .next t)
    (hf : ∀ u, f (u.setFlag .d b) = (f u).setFlag .d b) :
    retire mode cost f (s.setFlag .d b) = .next (t.setFlag .d b) := by
  obtain rfl := Host.Outcome.next.inj ht
  rw [retire_eq]
  exact congrArg (fun u : State => Host.Outcome.next (u.charge cost)) (hf (s.advance (1 + mode.operandBytes)))

theorem branch_setFlag_d {taken taken' : Bool} {d : Byte} (hc : taken' = taken)
    (ht : branch taken d s = .next t) : branch taken' d (s.setFlag .d b) = .next (t.setFlag .d b) := by
  rw [hc, branch_eq]
  rw [branch_eq] at ht
  injection ht with ht
  exact ht ▸ rfl

theorem modifyMem_setFlag_d {m : Addr} {f : Byte → Byte} {after : Byte → State → State}
    (ht : modifyMem m f after s = .next t) (ha : ∀ r u, after r (u.setFlag .d b) = (after r u).setFlag .d b) :
    modifyMem m f after (s.setFlag .d b) = .next (t.setFlag .d b) :=
  retire_setFlag_d (f := fun u => after (f (memValue m s)) (u.write (effectiveAddress m s) (f (memValue m s)))) ht
    fun u => (congrArg (after _) (setFlag_d_write u b _ _)).trans (ha _ _)

theorem shiftMem_setFlag_d {m : Addr} {f f' : Byte → Shift} {after : Byte → State → State} (hf : f' = f)
    (ht : shiftMem m f after s = .next t) (ha : ∀ r u, after r (u.setFlag .d b) = (after r u).setFlag .d b) :
    shiftMem m f' after (s.setFlag .d b) = .next (t.setFlag .d b) := by
  rw [hf]
  refine retire_setFlag_d (f := fun u => after (f (memValue m s)).result
    ((u.setFlag .c (f (memValue m s)).carry).write (effectiveAddress m s) (f (memValue m s)).result)) ht fun u => ?_
  rw [setFlag_d_setFlag _ _ (by decide), setFlag_d_write, ha]

theorem shift_setFlag_d {o : Rmw} {f f' : Byte → Shift} (hf : f' = f) (ht : shift o f s = .next t) :
    shift o f' (s.setFlag .d b) = .next (t.setFlag .d b) := by
  rw [hf]
  have hv : rmwValue o (s.setFlag .d b) = rmwValue o s := by cases o <;> rfl
  rw [shift_eq] at ht ⊢
  injection ht with ht
  have hu : (s.setFlag .d b).advance (1 + o.mode.operandBytes)
      = (s.advance (1 + o.mode.operandBytes)).setFlag .d b := rfl
  rw [hv, hu, setFlag_d_setFlag _ _ (by decide), setFlag_d_setNZ, setFlag_d_rmwStore, ← ht]
  rfl

/-! ### The instructions -/

/-- The instructions that write D (R30). -/
def dWriters : List Instr := [.sed, .cld, .plp, .rti]

/-- The instructions that push P, and so read D (R30). -/
def statusPushers : List Instr := [.php, .brk]

/-- An instruction that neither writes D nor pushes P commutes with a write of D. -/
theorem exec_setFlag_d {i : Instr} (hw : i ∉ dWriters) (hp : i ∉ statusPushers) (ht : exec i s = .next t) :
    exec i (s.setFlag .d b) = .next (t.setFlag .d b) := by
  have hc : (s.setFlag .d b).flag .c = s.flag .c := flag_setFlag_d s b (by decide)
  have hz : (s.setFlag .d b).flag .z = s.flag .z := flag_setFlag_d s b (by decide)
  have hn : (s.setFlag .d b).flag .n = s.flag .n := flag_setFlag_d s b (by decide)
  have hv : (s.setFlag .d b).flag .v = s.flag .v := flag_setFlag_d s b (by decide)
  cases i with
  | lda o => exact retire_setFlag_d ht (fun u => setFlag_d_loadA u b _)
  | ldx o => exact retire_setFlag_d ht (fun u => setFlag_d_loadX u b _)
  | ldy o => exact retire_setFlag_d ht (fun u => setFlag_d_loadY u b _)
  | sta m => exact retire_setFlag_d ht (fun u => setFlag_d_write u b _ _)
  | stx m => exact retire_setFlag_d ht (fun u => setFlag_d_write u b _ _)
  | sty m => exact retire_setFlag_d ht (fun u => setFlag_d_write u b _ _)
  | adc o => exact retire_setFlag_d ht (fun u => setFlag_d_addWithCarry u b _)
  | sbc o => exact retire_setFlag_d ht (fun u => setFlag_d_addWithCarry u b _)
  | and o => exact retire_setFlag_d ht (fun u => setFlag_d_loadA u b _)
  | ora o => exact retire_setFlag_d ht (fun u => setFlag_d_loadA u b _)
  | eor o => exact retire_setFlag_d ht (fun u => setFlag_d_loadA u b _)
  | cmp o => exact retire_setFlag_d ht (fun u => setFlag_d_compare u b _ _)
  | cpx o => exact retire_setFlag_d ht (fun u => setFlag_d_compare u b _ _)
  | cpy o => exact retire_setFlag_d ht (fun u => setFlag_d_compare u b _ _)
  | bit m => exact retire_setFlag_d ht (fun u => setFlag_d_testBits u b _)
  | asl o => exact shift_setFlag_d rfl ht
  | lsr o => exact shift_setFlag_d rfl ht
  | rol o => exact shift_setFlag_d (by rw [hc]) ht
  | ror o => exact shift_setFlag_d (by rw [hc]) ht
  | inc m => exact modifyMem_setFlag_d (f := (· + 1)) ht (fun r u => setFlag_d_setNZ u b r)
  | dec m => exact modifyMem_setFlag_d (f := (· - 1)) ht (fun r u => setFlag_d_setNZ u b r)
  | inx => exact retire_setFlag_d ht (fun u => setFlag_d_loadX u b _)
  | iny => exact retire_setFlag_d ht (fun u => setFlag_d_loadY u b _)
  | dex => exact retire_setFlag_d ht (fun u => setFlag_d_loadX u b _)
  | dey => exact retire_setFlag_d ht (fun u => setFlag_d_loadY u b _)
  | bcc d => exact branch_setFlag_d (by rw [hc]) ht
  | bcs d => exact branch_setFlag_d hc ht
  | beq d => exact branch_setFlag_d hz ht
  | bne d => exact branch_setFlag_d (by rw [hz]) ht
  | bmi d => exact branch_setFlag_d hn ht
  | bpl d => exact branch_setFlag_d (by rw [hn]) ht
  | bvc d => exact branch_setFlag_d (by rw [hv]) ht
  | bvs d => exact branch_setFlag_d hv ht
  | jmp o => exact retire_setFlag_d ht (fun u => rfl)
  | jsr w =>
    exact retire_setFlag_d (f := fun u => (u.pushWord (u.pc - 1)).jump w) ht
      (fun u => congrArg (State.jump w) (setFlag_d_pushWord u b _))
  | rts => exact retire_setFlag_d (f := fun u => (u.popped 2).jump (u.topWord 1 + 1)) ht (fun u => rfl)
  | rti => exact absurd (by decide) hw
  | brk => exact absurd (by decide) hp
  | pha => exact retire_setFlag_d ht (fun u => setFlag_d_push u b _)
  | php => exact absurd (by decide) hp
  | pla =>
    exact retire_setFlag_d (f := fun u => (u.popped 1).loadA (u.top 1)) ht
      (fun u => setFlag_d_loadA (u.popped 1) b _)
  | plp => exact absurd (by decide) hw
  | clc => exact retire_setFlag_d ht (fun u => setFlag_d_setFlag u b (by decide) _)
  | sec => exact retire_setFlag_d ht (fun u => setFlag_d_setFlag u b (by decide) _)
  | cli => exact retire_setFlag_d ht (fun u => setFlag_d_setFlag u b (by decide) _)
  | sei => exact retire_setFlag_d ht (fun u => setFlag_d_setFlag u b (by decide) _)
  | cld => exact absurd (by decide) hw
  | sed => exact absurd (by decide) hw
  | clv => exact retire_setFlag_d ht (fun u => setFlag_d_setFlag u b (by decide) _)
  | tax => exact retire_setFlag_d ht (fun u => setFlag_d_loadX u b _)
  | tay => exact retire_setFlag_d ht (fun u => setFlag_d_loadY u b _)
  | txa => exact retire_setFlag_d ht (fun u => setFlag_d_loadA u b _)
  | tya => exact retire_setFlag_d ht (fun u => setFlag_d_loadA u b _)
  | tsx => exact retire_setFlag_d ht (fun u => setFlag_d_loadX u b _)
  | txs => exact retire_setFlag_d (f := fun u => { u with sp := s.x }) ht (fun u => rfl)
  | nop => exact retire_setFlag_d ht (fun u => rfl)
  | nopU op arg => exact retire_setFlag_d ht (fun u => rfl)
  | laxU m =>
    exact retire_setFlag_d (f := fun u => State.loadX (memValue m s) { u with a := memValue m s }) ht
      (fun u => setFlag_d_loadX { u with a := memValue m s } b _)
  | saxU m => exact retire_setFlag_d ht (fun u => setFlag_d_write u b _ _)
  | sbcU v => exact retire_setFlag_d ht (fun u => setFlag_d_addWithCarry u b _)
  | dcpU m => exact modifyMem_setFlag_d (f := (· - 1)) ht (fun r u => setFlag_d_compare u b _ r)
  | isbU m =>
    exact modifyMem_setFlag_d (f := (· + 1)) (after := fun r => State.addWithCarry (~~~r)) ht
      (fun r u => setFlag_d_addWithCarry u b _)
  | sloU m =>
    exact shiftMem_setFlag_d (after := fun r => State.loadA (s.a ||| r)) rfl ht
      (fun r u => setFlag_d_loadA u b _)
  | rlaU m =>
    exact shiftMem_setFlag_d (after := fun r => State.loadA (s.a &&& r)) (by rw [hc]) ht
      (fun r u => setFlag_d_loadA u b _)
  | sreU m =>
    exact shiftMem_setFlag_d (after := fun r => State.loadA (s.a ^^^ r)) rfl ht
      (fun r u => setFlag_d_loadA u b _)
  | rraU m => exact shiftMem_setFlag_d (by rw [hc]) ht (fun r u => setFlag_d_addWithCarry u b r)
  | unmapped op =>
    have ht : Host.Outcome.next s.decodeFailure = Host.Outcome.next t := ht
    injection ht with ht
    exact ht ▸ rfl

/-- An instruction that writes D answers the same state whatever D held. -/
theorem exec_dWriter_setFlag_d {i : Instr} (hw : i ∈ dWriters) : exec i (s.setFlag .d b) = exec i s := by
  have hset (c : Bool) : retire .implied 2 (State.setFlag .d c) (s.setFlag .d b)
      = retire .implied 2 (State.setFlag .d c) s :=
    congrArg (fun u : State => Host.Outcome.next (u.charge 2)) (setFlag_setFlag_same (s.advance 1) b .d c)
  simp only [dWriters, List.mem_cons, List.not_mem_nil, or_false] at hw
  rcases hw with rfl | rfl | rfl | rfl
  · exact hset true
  · exact hset false
  · exact congrArg (fun u : State => Host.Outcome.next (u.charge 4))
      (setFlag_d_pullStatus ((s.advance 1).popped 1) b _)
  · exact congrArg (fun u : State => Host.Outcome.next (((u.popped 3).jump ((s.advance 1).topWord 2)).charge 6))
      (setFlag_d_pullStatus (s.advance 1) b _)

/-- Whatever D is written to, an instruction that does not push P ends in the same state but for D. -/
theorem exec_inert_in_d {i : Instr} (hp : i ∉ statusPushers) (ht : exec i s = .next t) :
    ∃ t', exec i (s.setFlag .d b) = .next t' ∧ t'.setFlag .d false = t.setFlag .d false := by
  by_cases hw : i ∈ dWriters
  · exact ⟨t, (exec_dWriter_setFlag_d hw).trans ht, rfl⟩
  · exact ⟨t.setFlag .d b, exec_setFlag_d hw hp ht, setFlag_setFlag_same t b .d false⟩

/-- The pushes of P leave the live D as it was (R183, R191). -/
theorem exec_statusPusher_keeps_d {i : Instr} (hp : i ∈ statusPushers) (ht : exec i s = .next t) :
    t.flag .d = s.flag .d := by
  simp only [statusPushers, List.mem_cons, List.not_mem_nil, or_false] at hp
  rcases hp with rfl | rfl
  · obtain rfl := Host.Outcome.next.inj ht
    simp
  · obtain rfl := Host.Outcome.next.inj ht
    obtain ⟨-, -, -, -, -, -, -, -, -, -, -, -, -, hf⟩ := (s.advance 1).enterVector_spec
      ((s.advance 1).pc + 1) (s.advance 1).statusPushed Config.irqVector
    exact hf .d

/-- No instruction but the writers of D changes it: one that commutes with every write of D commutes with the write of
the value D has, which is no change of `s`. -/
theorem exec_keeps_d {i : Instr} (hw : i ∉ dWriters) (ht : exec i s = .next t) : t.flag .d = s.flag .d := by
  by_cases hp : i ∈ statusPushers
  · exact exec_statusPusher_keeps_d hp ht
  · have h := exec_setFlag_d (b := s.flag .d) hw hp ht
    rw [setFlag_d_flag_d, ht] at h
    injection h with h
    rw [h, State.flag_setFlag]
    simp

/-! ### What the writers of D write -/

theorem exec_sed_d (ht : exec .sed s = .next t) : t.flag .d = true := by
  obtain rfl := Host.Outcome.next.inj ht
  simp

theorem exec_cld_d (ht : exec .cld s = .next t) : t.flag .d = false := by
  obtain rfl := Host.Outcome.next.inj ht
  simp

/-- PLP and RTI take D from bit 3 of the Byte they pull (R182, R193). -/
theorem exec_pull_d {i : Instr} (hi : i = .plp ∨ i = .rti) (ht : exec i s = .next t) :
    t.flag .d = (s.read (stackAddr (s.sp + 1))).getLsbD 3 := by
  rcases hi with rfl | rfl
  · obtain rfl := Host.Outcome.next.inj ht
    exact ((s.advance 1).popped 1).flag_pullStatus _ .d
  · obtain rfl := Host.Outcome.next.inj ht
    exact (s.advance 1).flag_pullStatus _ .d

/-! ### The binary sums (R130) -/

theorem addBytes_toNat (a m : Byte) (c : Bool) :
    (addBytes a m c).result.toNat = (a.toNat + m.toNat + c.toNat) % 256 := BitVec.toNat_ofNat _ _

/-- Adding the complement subtracts the operand and the borrow (R133). -/
theorem addBytes_not_toNat (a m : Byte) (c : Bool) :
    ((addBytes a (~~~m) c).result.toNat : Int) = ((a.toNat : Int) - m.toNat - (1 - c.toNat : Nat)) % 256 := by
  rw [addBytes_toNat, BitVec.toNat_not]
  have hm := m.isLt
  have hc := c.toNat_le
  omega

/-- ROR halves the Byte, brings the carry in at bit 7 and shifts bit 0 out (R154). -/
theorem rotateRight_toNat (c : Bool) (v : Byte) :
    (rotateRight c v).result.toNat = v.toNat / 2 + 128 * c.toNat ∧
    (rotateRight c v).carry.toNat = v.toNat % 2 := by
  revert v
  cases c <;> decide

theorem exec_adc_a {o : Src} (ht : exec (.adc o) s = .next t) :
    t.a.toNat = (s.a.toNat + (srcValue o s).toNat + (s.flag .c).toNat) % 256 := by
  obtain rfl := Host.Outcome.next.inj ht
  exact addBytes_toNat s.a (srcValue o s) (s.flag .c)

theorem exec_sbc_a {o : Src} (ht : exec (.sbc o) s = .next t) :
    (t.a.toNat : Int) = ((s.a.toNat : Int) - (srcValue o s).toNat - (1 - (s.flag .c).toNat : Nat)) % 256 := by
  obtain rfl := Host.Outcome.next.inj ht
  exact addBytes_not_toNat s.a (srcValue o s) (s.flag .c)

/-- *ISB subtracts the incremented Byte (R216). -/
theorem exec_isbU_a {m : Addr} (ht : exec (.isbU m) s = .next t) :
    (t.a.toNat : Int) =
      ((s.a.toNat : Int) - ((memValue m s).toNat + 1) % 256 - (1 - (s.flag .c).toNat : Nat)) % 256 := by
  obtain rfl := Host.Outcome.next.inj ht
  have h := addBytes_not_toNat s.a (memValue m s + 1) (s.flag .c)
  rw [BitVec.toNat_add] at h
  simpa using h

/-- *RRA adds the rotated Byte, with the bit the rotate shifts out as its carry (R220). -/
theorem exec_rraU_a {m : Addr} (ht : exec (.rraU m) s = .next t) :
    t.a.toNat = (s.a.toNat + ((memValue m s).toNat / 2 + 128 * (s.flag .c).toNat) +
      (memValue m s).toNat % 2) % 256 := by
  obtain rfl := Host.Outcome.next.inj ht
  obtain ⟨hr, hc⟩ := rotateRight_toNat (s.flag .c) (memValue m s)
  rw [← hr, ← hc, ← addBytes_toNat]
  simp

/-- Settles O18: D is inert in the instructions that do not push P, SED, CLD, PLP and RTI alone write it, and the four
sums are binary. -/
theorem decimalFlagIsInert : Obligations.DecimalFlagIsInert := by
  intro i s t b ht
  refine ⟨fun hphp hbrk => exec_inert_in_d (by simp [statusPushers, hphp, hbrk]) ht, fun hw => exec_keeps_d hw ht,
    fun hi => exec_sed_d (hi ▸ ht), fun hi => exec_cld_d (hi ▸ ht), fun hi => exec_pull_d hi ht,
    fun o hi => exec_adc_a (hi ▸ ht), fun o hi => exec_sbc_a (hi ▸ ht), fun m hi => exec_rraU_a (hi ▸ ht),
    fun m hi => exec_isbU_a (hi ▸ ht)⟩

end Sys2Proof.Proofs.DecimalFlag
end

section
/-! PROOFS. The RAM mirrors in arithmetic (spec/20_memory.md R42): the mask of a cell index is a remainder, so one cell is
exactly the addresses that agree modulo 0x800. -/

namespace Sys2Proof.Proofs.RamMirrors

open Sys2Proof Sys2Proof.Machine

/-- Masking with 0x07FF is the remainder by the 2 KiB of RAM (R42). -/
theorem ramIndex_eq_mod (addr : Word) : ramIndex addr = addr.toNat % 0x800 := by
  unfold ramIndex
  rw [BitVec.toNat_and]
  exact Nat.and_two_pow_sub_one_eq_mod addr.toNat 11

/-- One cell is two addresses below 0x2000 that agree modulo 0x800 (R42). -/
theorem sameCell_iff (e addr : Word) : sameCell e addr = true ↔
    e.toNat < 0x2000 ∧ addr.toNat < 0x2000 ∧ addr.toNat % 0x800 = e.toNat % 0x800 := by
  simp only [sameCell, Bool.and_eq_true, decide_eq_true_eq, beq_iff_eq, ramIndex_eq_mod, BitVec.lt_def,
    BitVec.toNat_ofNat, Nat.reducePow, Nat.reduceMod, and_assoc, eq_comm (a := addr.toNat % 0x800)]

/-- Settles O23: a write to RAM is read back in its own cell alone, and a cell is the four mirrors of R42. -/
theorem ramIsMirroredFourTimes : Obligations.RamIsMirroredFourTimes := by
  refine ⟨sameCell_iff, fun s e addr v hs he => ?_⟩
  obtain ⟨hram, -, -⟩ := hs
  rw [s.read_write e addr v (BitVec.lt_def.mpr he) hram]
  simp only [sameCell_iff, he, true_and]

end Sys2Proof.Proofs.RamMirrors
end

section
/-! PROOFS. The zero-page and absolute addressing modes in arithmetic (spec/30_encoding.md R84-R89), and which
instructions the map gives the mode zero_page_y. -/

namespace Sys2Proof.Proofs.AddressModes

open Sys2Proof Sys2Proof.Machine

/-! ### Addresses and crossings -/

/-- An index added before the extension to a Word wraps in page zero (R85, R86). -/
theorem toNat_zext_add (b i : Byte) : (zext (b + i)).toNat = (b.toNat + i.toNat) % 256 := by
  rw [toNat_zext, BitVec.toNat_add]

/-- An index added after the extension to a Word wraps in the address space (R88, R89). -/
theorem toNat_add_zext (w : Word) (i : Byte) : (w + zext i).toNat = (w.toNat + i.toNat) % 65536 := by
  rw [BitVec.toNat_add, toNat_zext]

/-- Two addresses lie in different pages when their high bytes differ (R12). -/
theorem crosses_iff (target base : Word) :
    crosses target base = true ↔ target.toNat / 256 ≠ base.toNat / 256 := by
  rw [crosses, bne_iff_ne, ← toNat_hi, ← toNat_hi, BitVec.toNat_ne_iff_ne]

/-- An indexed Word crosses when the wrapped sum leaves the base's page (R88, R89). -/
theorem crosses_add_zext_iff (w : Word) (i : Byte) :
    crosses (w + zext i) w = true ↔ (w.toNat + i.toNat) % 65536 / 256 ≠ w.toNat / 256 := by
  rw [crosses_iff, toNat_add_zext]

/-! ### The decoder on the official opcodes -/

/-- An official entry of the map is mapped under either setting (R75, R77). -/
theorem lookup_of_official (u : Unofficial) {op : Byte} {e : Entry} (hrom : dispatchROM.getD op.toNat none = some e)
    (ho : e.official = true) : lookup u op = some e := by
  unfold lookup
  rw [hrom]
  exact if_neg (by simp [ho])

/-- An official opcode with two operand bytes is built from the two bytes after it, in stream order (R71). -/
theorem decode_two_operands (u : Unofficial) {op : Byte} {e : Entry}
    (hrom : dispatchROM.getD op.toNat none = some e) (ho : e.official = true) (hm : e.mode.operandBytes = 2)
    (l h : Byte) (rest : List Byte) : decode u (op :: l :: h :: rest) = .ok (e.build l h, rest) := by
  have hl := lookup_of_official u hrom ho
  have hlen : lengthOf u op = 3 := by simp [lengthOf, hl, hm]
  rw [decode_cons u op _ (by simp [hlen]), decodeBytes_mapped hl, hlen]
  rfl

/-! ### The forms of zero_page_y -/

/-- Only LDX, STX, *LAX and *SAX have a form in zero_page_y: it is in no other instruction's list (R86). -/
theorem user_of_zeroPageY {u : Unofficial} {i : Instr} (hw : i.wf u = true) (hm : i.mode = .zeroPageY) :
    ∃ m, i = .ldx (.mem m) ∨ i = .stx m ∨ i = .laxU m ∨ i = .saxU m := by
  cases i with
  | ldx o =>
    cases o with
    | immediate b => cases hm
    | mem m => exact ⟨m, .inl rfl⟩
  | stx m => exact ⟨m, .inr (.inl rfl)⟩
  | laxU m => exact ⟨m, .inr (.inr (.inl rfl))⟩
  | saxU m => exact ⟨m, .inr (.inr (.inr rfl))⟩
  | lda o | adc o | sbc o | and o | ora o | eor o | cmp o | ldy o | cpx o | cpy o
  | asl o | lsr o | rol o | ror o | sta o | sty o | bit o | inc o | dec o
  | dcpU o | isbU o | sloU o | rlaU o | sreU o | rraU o =>
    have ho : o.mode = .zeroPageY := hm
    simp [Instr.wf, ho, Mode.readForms, Mode.indexedForms, Mode.rmwForms] at hw
  | nopU op arg =>
    have harg : arg.mode = .zeroPageY := hm
    simp [Instr.wf, harg, nopOpcodes] at hw
  | jmp t => cases t <;> cases hm
  | bcc | bcs | beq | bne | bmi | bpl | bvc | bvs | jsr | sbcU | unmapped
  | inx | iny | dex | dey | rts | rti | brk | pha | php | pla | plp | clc | sec | cli | sei | cld | sed | clv
  | tax | tay | txa | tya | tsx | txs | nop => cases hm

/-! ### The obligations -/

/-- Settles O32: the index is added to the operand Byte before it becomes an address, and the mode
zero_page_y stands in four "Opcodes:" lines alone. -/
theorem zeroPageModesStayInPageZero : Obligations.ZeroPageModesStayInPageZero := by
  intro b s
  exact ⟨toNat_zext b, toNat_zext_add b s.x, toNat_zext_add b s.y, rfl, rfl, rfl, rfl, rfl, rfl,
    fun _ _ => user_of_zeroPageY⟩

/-- Settles O33: the base is the Word of the two operand bytes, and the index is added to that Word. -/
theorem absoluteModesWrapAndFlagCrossing : Obligations.AbsoluteModesWrapAndFlagCrossing := by
  intro l h s
  dsimp only
  rw [← toNat_word l h]
  have hops : [lo (word l h), hi (word l h)] = [l, h] := by rw [lo_word, hi_word]
  refine ⟨rfl, rfl, toNat_add_zext _ s.x, crosses_add_zext_iff _ s.x, toNat_add_zext _ s.y,
    crosses_add_zext_iff _ s.y, rfl, rfl, rfl, hops, hops, hops, fun u rest => ⟨?_, ?_, ?_⟩⟩
  · exact decode_two_operands u (op := 0xAD) rfl rfl rfl l h rest
  · exact decode_two_operands u (op := 0xBD) rfl rfl rfl l h rest
  · exact decode_two_operands u (op := 0xB9) rfl rfl rfl l h rest

end Sys2Proof.Proofs.AddressModes
end

section
/-! PROOFS. The "Opcodes:" lines (spec/40_step.md R111) as three tables over the addressing modes: where an instruction is
well formed, its opcode, and its cost class. An instruction is `Listed` when its line agrees with the three, which for a
given line is a finite check. -/

namespace Sys2Proof.Proofs.OpcodeLines

open Sys2Proof Sys2Proof.Machine

/-! ### The tables by mode -/

/-- The opcode of one instruction in each mode. -/
def opcodeIn (F : Forms) : Mode → Option Byte
  | .immediate => F.immediate
  | .accumulator => F.accumulator
  | .zeroPage => F.zeroPage
  | .zeroPageX => F.zeroPageX
  | .zeroPageY => F.zeroPageY
  | .absolute => F.absolute
  | .absoluteX => F.absoluteX
  | .absoluteY => F.absoluteY
  | .indexedIndirect => F.indexedIndirect
  | .indirectIndexed => F.indirectIndexed
  | .implied | .relative | .indirect => none

/-- The base cost of an instruction that reads, in each mode, and whether it pays for a page crossing (R75, R106).
The modes of no memory operand take the entry of an immediate one. -/
def readClass : Mode → Nat × Bool
  | .zeroPage => (3, false)
  | .zeroPageX | .zeroPageY | .absolute => (4, false)
  | .absoluteX | .absoluteY => (4, true)
  | .indexedIndirect => (6, false)
  | .indirectIndexed => (5, true)
  | .immediate | .implied | .accumulator | .relative | .indirect => (2, false)

/-- The base cost of a store in each mode; none pays for a page crossing (R75, R106). The modes no store
has, which stand in no line, take a value that is not used. -/
def storeClass : Mode → Nat × Bool
  | .zeroPage => (3, false)
  | .absoluteX | .absoluteY => (5, false)
  | .indexedIndirect | .indirectIndexed => (6, false)
  | .zeroPageX | .zeroPageY | .absolute | .immediate | .implied | .accumulator | .relative | .indirect => (4, false)

/-- What an instruction of a cost class costs in `s` (R105, R106). -/
def classCost (c : Nat × Bool) (i : Instr) (s : State) : Nat :=
  c.1 + if c.2 = true then (crossedBy i s).toNat else 0

theorem addr_opcode_eq (F : Forms) (m : Addr) : m.opcode F = opcodeIn F m.mode := by cases m <;> rfl

theorem src_opcode_eq (F : Forms) (o : Src) : o.opcode F = opcodeIn F o.mode := by
  cases o with
  | immediate b => rfl
  | mem m => exact addr_opcode_eq F m

theorem readCost_eq {i : Instr} {m : Addr} (hi : memOperand i = some m) (s : State) :
    readCost m s = classCost (readClass m.mode) i s := by
  have hc : crossedBy i s = pageCrossed m s := by rw [crossedBy, hi]
  rw [classCost, hc]
  cases m <;> rfl

theorem srcCost_eq {i : Instr} {o : Src} (hi : ∀ m, o = .mem m → memOperand i = some m) (s : State) :
    srcCost o s = classCost (readClass o.mode) i s := by
  cases o with
  | immediate b => rfl
  | mem m => exact readCost_eq (hi m rfl) s

theorem storeBase_eq (i : Instr) (m : Addr) (s : State) : storeBase m = classCost (storeClass m.mode) i s := by
  cases m <;> rfl

/-! ### Lines that agree with the tables -/

/-- Every entry of the line has the opcode, the base cost and the mark that the tables give its mode. -/
def Agrees (line : List Form) (F : Forms) (costClass : Mode → Nat × Bool) : Prop :=
  ∀ f ∈ line, opcodeIn F f.mode = some f.opcode ∧ costClass f.mode = (f.base, f.plus)

variable {line : List Form} {F : Forms} {i : Instr}

/-- An instruction is listed in a line that agrees with the tables of its opcodes and costs. -/
theorem listed_of_agrees {costClass : Mode → Nat × Bool} (hline : Agrees line F costClass)
    (hwf : ∀ u, i.wf u = true ↔ i.mode ∈ line.map Form.mode) (hop : i.opcode = opcodeIn F i.mode)
    (hcost : ∀ s, ∃ t, exec i s = .next t ∧
      t.cycles = s.cycles + BitVec.ofNat 64 (classCost (costClass i.mode) i s)) : Listed line i := by
  refine ⟨fun u => (hwf u).trans List.mem_map, fun f hf hm => ?_⟩
  obtain ⟨ho, hc⟩ := hline f hf
  rw [hm] at ho hc
  rw [hc] at hcost
  exact ⟨by rw [encode, hop, ho, Option.map_some], hcost⟩

/-- An instruction that reads is listed in a line that agrees with its opcodes and the costs of a read. -/
theorem listed_of_read {o : Src} (hline : Agrees line F readClass) (hmode : i.mode = o.mode)
    (hwf : ∀ u, i.wf u = true ↔ o.mode ∈ line.map Form.mode) (hop : i.opcode = o.opcode F)
    (hi : ∀ m, o = .mem m → memOperand i = some m)
    (hcost : ∀ s, ∃ t, exec i s = .next t ∧ t.cycles = s.cycles + BitVec.ofNat 64 (srcCost o s)) :
    Listed line i := by
  rw [← hmode] at hwf
  refine listed_of_agrees hline hwf (by rw [hop, hmode, src_opcode_eq]) fun s => ?_
  rw [hmode, ← srcCost_eq hi]
  exact hcost s

/-- A store is listed in a line that agrees with its opcodes and the costs of a store. -/
theorem listed_of_store {m : Addr} (hline : Agrees line F storeClass) (hmode : i.mode = m.mode)
    (hwf : ∀ u, i.wf u = true ↔ m.mode ∈ line.map Form.mode) (hop : i.opcode = m.opcode F)
    (hcost : ∀ s, ∃ t, exec i s = .next t ∧ t.cycles = s.cycles + BitVec.ofNat 64 (storeBase m)) :
    Listed line i := by
  rw [← hmode] at hwf
  refine listed_of_agrees hline hwf (by rw [hop, hmode, addr_opcode_eq]) fun s => ?_
  rw [hmode, ← storeBase_eq]
  exact hcost s

end Sys2Proof.Proofs.OpcodeLines
end

section
/-! PROOFS. The loads and stores (spec/41_load_store.md R120-R125): a load is a register written and N and Z set, a store
is one bus write, and each stands in its "Opcodes:" line. -/

namespace Sys2Proof.Proofs.LoadStore

open Sys2Proof Sys2Proof.Machine Sys2Proof.Proofs.OpcodeLines

/-! ### What a load and a store leave unchanged -/

/-- An instruction that writes registers among a, x and y and then sets N and Z from `v` changes nothing else but pc
and the counter. -/
theorem setNZ_frame (s : State) (length cost : Nat) (a x y v : Byte) :
    let t := ({ s.advance length with a := a, x := x, y := y }.setNZ v).charge cost
    NZ v t ∧ SameFlags [.n, .z] s t ∧ SameBytes s t ∧ Retires length cost s t := by
  intro t
  have hflag (g : Flag) : t.flag g = if g = .z then v == 0 else if g = .n then v.getLsbD 7 else s.flag g :=
    State.flag_setNZ { s.advance length with a := a, x := x, y := y } v g
  refine ⟨nz_of_flags (hflag .z) (hflag .n), fun g hg => ?_, sameBytes_of_stores rfl rfl,
    retires_of_fields rfl rfl ⟨rfl, rfl, rfl, rfl, rfl⟩⟩
  simp only [List.mem_cons, List.not_mem_nil, or_false, not_or] at hg
  rw [hflag, if_neg hg.2, if_neg hg.1]

/-- An instruction whose effect is one bus write answers a next state: the Byte is stored, and of the registers and
flags only pc changes. -/
theorem retire_write (mode : Mode) (cost : Nat) (e : Word) (v : Byte) (s : State) :
    ∃ t, retire mode cost (State.write e v) s = .next t ∧ Stores e v s t ∧ t.a = s.a ∧ t.x = s.x ∧ t.y = s.y ∧
      t.sp = s.sp ∧ SameFlags [] s t ∧ Retires (1 + mode.operandBytes) cost s t := by
  refine ⟨_, retire_eq s mode cost _, stores_of_write ?_ ?_, by simp, by simp, by simp, by simp, fun g _ => by simp,
    retires_of_fields (by simp) (by simp) (by simp)⟩
  · simp [State.write_ram]
  · simp [State.write_cart]

theorem retire_write_cycles (mode : Mode) (cost : Nat) (e : Word) (v : Byte) (s : State) :
    ∃ t, retire mode cost (State.write e v) s = .next t ∧ t.cycles = s.cycles + BitVec.ofNat 64 cost :=
  ⟨_, retire_eq s mode cost _, by simp⟩

/-! ### The opcode lines -/

theorem agrees_lda : Agrees Line.lda Forms.lda readClass := by unfold Agrees; decide
theorem agrees_ldx : Agrees Line.ldx Forms.ldx readClass := by unfold Agrees; decide
theorem agrees_ldy : Agrees Line.ldy Forms.ldy readClass := by unfold Agrees; decide
theorem agrees_sta : Agrees Line.sta Forms.sta storeClass := by unfold Agrees; decide
theorem agrees_stx : Agrees Line.stx Forms.stx storeClass := by unfold Agrees; decide
theorem agrees_sty : Agrees Line.sty Forms.sty storeClass := by unfold Agrees; decide

theorem listed_lda (o : Src) : Listed Line.lda (.lda o) :=
  listed_of_read agrees_lda rfl (fun _ => decide_eq_true_iff) rfl (fun _ h => h ▸ rfl) fun _ => ⟨_, rfl, rfl⟩

theorem listed_ldx (o : Src) : Listed Line.ldx (.ldx o) :=
  listed_of_read agrees_ldx rfl (fun _ => decide_eq_true_iff) rfl (fun _ h => h ▸ rfl) fun _ => ⟨_, rfl, rfl⟩

theorem listed_ldy (o : Src) : Listed Line.ldy (.ldy o) :=
  listed_of_read agrees_ldy rfl (fun _ => decide_eq_true_iff) rfl (fun _ h => h ▸ rfl) fun _ => ⟨_, rfl, rfl⟩

theorem listed_sta (m : Addr) : Listed Line.sta (.sta m) :=
  listed_of_store agrees_sta rfl (fun _ => decide_eq_true_iff) rfl fun s => retire_write_cycles _ _ _ s.a s

theorem listed_stx (m : Addr) : Listed Line.stx (.stx m) :=
  listed_of_store agrees_stx rfl (fun _ => decide_eq_true_iff) rfl fun s => retire_write_cycles _ _ _ s.x s

theorem listed_sty (m : Addr) : Listed Line.sty (.sty m) :=
  listed_of_store agrees_sty rfl (fun _ => decide_eq_true_iff) rfl fun s => retire_write_cycles _ _ _ s.y s

/-! ### The obligations -/

/-- Settles O35: each load writes the operand to its register and sets N and Z from it, with the frame of
`setNZ_frame`. -/
theorem loadsSetRegisterAndFlags : Obligations.LoadsSetRegisterAndFlags := by
  intro o s
  refine ⟨fun _ => rfl, fun _ => ⟨rfl, rfl, rfl⟩, rfl, listed_lda o, listed_ldx o, listed_ldy o, ?_, ?_, ?_⟩
  · obtain ⟨hnz, hflags, hbytes, hret⟩ :=
      setNZ_frame s (Instr.lda o).length (srcCost o s) (srcValue o s) s.x s.y (srcValue o s)
    exact ⟨_, rfl, rfl, hnz, rfl, rfl, rfl, hflags, hbytes, hret⟩
  · obtain ⟨hnz, hflags, hbytes, hret⟩ :=
      setNZ_frame s (Instr.ldx o).length (srcCost o s) s.a (srcValue o s) s.y (srcValue o s)
    exact ⟨_, rfl, rfl, hnz, rfl, rfl, rfl, hflags, hbytes, hret⟩
  · obtain ⟨hnz, hflags, hbytes, hret⟩ :=
      setNZ_frame s (Instr.ldy o).length (srcCost o s) s.a s.x (srcValue o s) (srcValue o s)
    exact ⟨_, rfl, rfl, hnz, rfl, rfl, rfl, hflags, hbytes, hret⟩

/-- Settles O36: each store is the one bus write of `retire_write`, at the effective address. -/
theorem storesWriteEffectiveAddress : Obligations.StoresWriteEffectiveAddress := by
  intro m s i v line h
  simp only [List.mem_cons, List.not_mem_nil, or_false, Prod.mk.injEq] at h
  obtain ⟨rfl, rfl, rfl⟩ | ⟨rfl, rfl, rfl⟩ | ⟨rfl, rfl, rfl⟩ := h
  · exact ⟨listed_sta m, retire_write m.mode (storeBase m) (effectiveAddress m s) s.a s⟩
  · exact ⟨listed_stx m, retire_write m.mode (storeBase m) (effectiveAddress m s) s.x s⟩
  · exact ⟨listed_sty m, retire_write m.mode (storeBase m) (effectiveAddress m s) s.y s⟩

end Sys2Proof.Proofs.LoadStore
end

section
/-! PROOFS. ADC and the compares (spec/42_alu.md R130-R132, R137-R139): `AddWithCarry` and `Compare` in arithmetic, and
what an instruction that retires with one of them leaves unchanged. -/

namespace Sys2Proof.Proofs.AddCompare

open Sys2Proof Sys2Proof.Machine Sys2Proof.Proofs.OpcodeLines Sys2Proof.Proofs.DecimalFlag

/-! ### The sum and the difference of two Bytes -/

/-- C of `AddWithCarry` is the unsigned carry out (R130). -/
theorem addBytes_carry_iff (a m : Byte) (c : Bool) :
    (addBytes a m c).carry = true ↔ 255 < a.toNat + m.toNat + c.toNat := decide_eq_true_iff

/-- V of `AddWithCarry` compares sign bits (R130). -/
theorem addBytes_overflow_iff_sign (a m : Byte) (c : Bool) :
    (addBytes a m c).overflow = true ↔ (128 ≤ a.toNat ↔ 128 ≤ m.toNat) ∧
      ¬ (128 ≤ (a.toNat + m.toNat + c.toNat) % 256 ↔ 128 ≤ a.toNat) := by
  rw [← addBytes_toNat]
  simp only [← getLsbD_seven, ← Bool.eq_iff_iff]
  simp [addBytes]

/-- V of `AddWithCarry` is the signed overflow: operands of one sign whose sum has the other sign are those whose signed
sum is no signed Byte (R130). -/
theorem addBytes_overflow_iff (a m : Byte) (c : Bool) :
    (addBytes a m c).overflow = true ↔
      a.toInt + m.toInt + (c.toNat : Int) < -128 ∨ 127 < a.toInt + m.toInt + (c.toNat : Int) := by
  rw [addBytes_overflow_iff_sign, BitVec.toInt_eq_toNat_cond, BitVec.toInt_eq_toNat_cond]
  have ha := a.isLt
  have hm := m.isLt
  have hc := c.toNat_le
  omega

/-- N of `Compare` is bit 7 of the difference modulo 256 (R131). -/
theorem getLsbD_seven_sub (r m : Byte) :
    (r - m).getLsbD 7 = true ↔ 128 ≤ (r.toNat + 256 - m.toNat) % 256 := by
  rw [getLsbD_seven, BitVec.toNat_sub]
  have hm := m.isLt
  omega

/-! ### What `AddWithCarry` and `Compare` leave unchanged -/

/-- An instruction whose effect is `AddWithCarry` writes a and four flags, and of the rest only pc and the counter. -/
theorem retire_addWithCarry (mode : Mode) (cost : Nat) (m : Byte) (s : State) :
    ∃ t, retire mode cost (State.addWithCarry m) s = .next t ∧ t.a = (addBytes s.a m (s.flag .c)).result ∧
      t.flag .c = (addBytes s.a m (s.flag .c)).carry ∧ t.flag .v = (addBytes s.a m (s.flag .c)).overflow ∧
      NZ t.a t ∧ t.x = s.x ∧ t.y = s.y ∧ t.sp = s.sp ∧ SameFlags [.n, .z, .c, .v] s t ∧ SameBytes s t ∧
      Retires (1 + mode.operandBytes) cost s t := by
  refine ⟨_, retire_eq s mode cost _, rfl, by simp, by simp, nz_of_flags (by simp) (by simp), rfl, rfl, rfl,
    fun g hg => ?_, sameBytes_of_stores rfl rfl, retires_of_fields rfl rfl ⟨rfl, rfl, rfl, rfl, rfl⟩⟩
  simp only [List.mem_cons, List.not_mem_nil, or_false, not_or] at hg
  simp [hg]

/-- An instruction whose effect is `Compare` writes three flags, and of the rest only pc and the counter. -/
theorem retire_compare (mode : Mode) (cost : Nat) (r m : Byte) (s : State) :
    ∃ t, retire mode cost (State.compare r m) s = .next t ∧ (t.flag .c = true ↔ m.toNat ≤ r.toNat) ∧
      (t.flag .z = true ↔ r = m) ∧ (t.flag .n = true ↔ 128 ≤ (r.toNat + 256 - m.toNat) % 256) ∧ t.a = s.a ∧
      t.x = s.x ∧ t.y = s.y ∧ t.sp = s.sp ∧ SameFlags [.c, .z, .n] s t ∧ SameBytes s t ∧
      Retires (1 + mode.operandBytes) cost s t := by
  refine ⟨_, retire_eq s mode cost _, by simp, by simp, ?_, rfl, rfl, rfl, rfl, fun g hg => ?_,
    sameBytes_of_stores rfl rfl, retires_of_fields rfl rfl ⟨rfl, rfl, rfl, rfl, rfl⟩⟩
  · rw [← getLsbD_seven_sub]
    simp
  · simp only [List.mem_cons, List.not_mem_nil, or_false, not_or] at hg
    simp [hg]

/-! ### The opcode lines -/

theorem agrees_adc : Agrees Line.adc Forms.adc readClass := by unfold Agrees; decide
theorem agrees_cmp : Agrees Line.cmp Forms.cmp readClass := by unfold Agrees; decide
theorem agrees_cpx : Agrees Line.cpx Forms.cpx readClass := by unfold Agrees; decide
theorem agrees_cpy : Agrees Line.cpy Forms.cpy readClass := by unfold Agrees; decide

theorem listed_adc (o : Src) : Listed Line.adc (.adc o) :=
  listed_of_read agrees_adc rfl (fun _ => decide_eq_true_iff) rfl (fun _ h => h ▸ rfl) fun _ => ⟨_, rfl, rfl⟩

theorem listed_cmp (o : Src) : Listed Line.cmp (.cmp o) :=
  listed_of_read agrees_cmp rfl (fun _ => decide_eq_true_iff) rfl (fun _ h => h ▸ rfl) fun _ => ⟨_, rfl, rfl⟩

theorem listed_cpx (o : Src) : Listed Line.cpx (.cpx o) :=
  listed_of_read agrees_cpx rfl (fun _ => decide_eq_true_iff) rfl (fun _ h => h ▸ rfl) fun _ => ⟨_, rfl, rfl⟩

theorem listed_cpy (o : Src) : Listed Line.cpy (.cpy o) :=
  listed_of_read agrees_cpy rfl (fun _ => decide_eq_true_iff) rfl (fun _ h => h ▸ rfl) fun _ => ⟨_, rfl, rfl⟩

/-! ### The obligations -/

/-- Settles O37: ADC retires with `AddWithCarry`, whose result, carry and overflow are those of the exact sum. -/
theorem adcAddsWithCarry : Obligations.AdcAddsWithCarry := by
  intro o s
  obtain ⟨t, ht, ha, hc, hv, hframe⟩ := retire_addWithCarry o.mode (srcCost o s) (srcValue o s) s
  refine ⟨listed_adc o, t, ht, ?_, ?_, ?_, hframe⟩
  · rw [ha, addBytes_toNat]
  · rw [hc, addBytes_carry_iff]
  · rw [hv, addBytes_overflow_iff]

/-- Settles O40: each compare retires with `Compare` of its register and the operand. -/
theorem compareSetsFlagsOnly : Obligations.CompareSetsFlagsOnly := by
  intro o s i r line h
  simp only [List.mem_cons, List.not_mem_nil, or_false, Prod.mk.injEq] at h
  obtain ⟨rfl, rfl, rfl⟩ | ⟨rfl, rfl, rfl⟩ | ⟨rfl, rfl, rfl⟩ := h
  · exact ⟨listed_cmp o, retire_compare o.mode (srcCost o s) s.a (srcValue o s) s⟩
  · exact ⟨listed_cpx o, retire_compare o.mode (srcCost o s) s.x (srcValue o s) s⟩
  · exact ⟨listed_cpy o, retire_compare o.mode (srcCost o s) s.y (srcValue o s) s⟩

end Sys2Proof.Proofs.AddCompare
end

section
/-! PROOFS. The shifts, rotates, increments and decrements (spec/43_shift_incdec.md R150-R160): a shift is its carry and
result in arithmetic and one write-back, an INC or DEC of memory is one bus write and N and Z set, and an index that moves
is a register load. -/

namespace Sys2Proof.Proofs.ShiftIncDec

open Sys2Proof Sys2Proof.Machine Sys2Proof.Proofs.DecimalFlag Sys2Proof.Proofs.OpcodeLines Sys2Proof.Proofs.LoadStore

/-! ### One bit to the left, one to the right, one up, one down -/

/-- Bit 7, which ASL and ROL shift out (R151, R153). -/
theorem getLsbD_seven_eq_decide (v : Byte) : v.getLsbD 7 = decide (128 ≤ v.toNat) :=
  Bool.eq_iff_iff.mpr ((getLsbD_seven v).trans decide_eq_true_iff.symm)

/-- Bit 0, which LSR and ROR shift out (R152, R154). -/
theorem getLsbD_zero_eq_decide (v : Byte) : v.getLsbD 0 = decide (v.toNat % 2 = 1) := Nat.testBit_zero v.toNat

/-- ROL doubles the Byte and brings the carry in at bit 0 (R153). -/
theorem rotateLeft_toNat (c : Bool) (v : Byte) :
    (rotateLeft c v).result.toNat = (2 * v.toNat + c.toNat) % 256 := by
  revert v
  cases c <;> decide

/-- ASL is the rotate that brings in 0 (R151). -/
theorem shiftLeft_eq_rotateLeft (v : Byte) : shiftLeft v = rotateLeft false v := by simp [shiftLeft, rotateLeft]

/-- LSR is the rotate that brings in 0 (R152). -/
theorem shiftRight_eq_rotateRight (v : Byte) : shiftRight v = rotateRight false v := by
  simp [shiftRight, rotateRight]

theorem shiftLeft_toNat (v : Byte) : (shiftLeft v).result.toNat = 2 * v.toNat % 256 := by
  rw [shiftLeft_eq_rotateLeft, rotateLeft_toNat, Bool.toNat_false, Nat.add_zero]

theorem shiftRight_toNat (v : Byte) : (shiftRight v).result.toNat = v.toNat / 2 := by
  rw [shiftRight_eq_rotateRight, (rotateRight_toNat false v).1, Bool.toNat_false, Nat.mul_zero, Nat.add_zero]

theorem toNat_add_one (v : Byte) : (v + 1).toNat = (v.toNat + 1) % 256 := BitVec.toNat_add v 1

theorem toNat_sub_one (v : Byte) : (v - 1).toNat = (v.toNat + 255) % 256 := by
  rw [BitVec.toNat_sub, Nat.add_comm]
  rfl

/-- A Byte is the one its number names. -/
theorem ofNat_eq_of_toNat_eq {r : Byte} {n : Nat} (h : r.toNat = n) : BitVec.ofNat 8 n = r := by
  rw [← h, BitVec.ofNat_toNat, BitVec.setWidth_eq]

/-! ### The write-back of a shift (R150) -/

section

variable (o : Rmw) (before : State) (r : Byte) (s : State)

@[simp] theorem rmwStore_x : (rmwStore o before r s).x = s.x := by cases o <;> simp [rmwStore]
@[simp] theorem rmwStore_y : (rmwStore o before r s).y = s.y := by cases o <;> simp [rmwStore]
@[simp] theorem rmwStore_sp : (rmwStore o before r s).sp = s.sp := by cases o <;> simp [rmwStore]
@[simp] theorem rmwStore_pc : (rmwStore o before r s).pc = s.pc := by cases o <;> simp [rmwStore]
@[simp] theorem rmwStore_p : (rmwStore o before r s).p = s.p := by cases o <;> simp [rmwStore]
@[simp] theorem rmwStore_cycles : (rmwStore o before r s).cycles = s.cycles := by cases o <;> simp [rmwStore]
@[simp] theorem rmwStore_halted : (rmwStore o before r s).halted = s.halted := by cases o <;> simp [rmwStore]
@[simp] theorem rmwStore_nmiPending : (rmwStore o before r s).nmiPending = s.nmiPending := by
  cases o <;> simp [rmwStore]
@[simp] theorem rmwStore_irq : (rmwStore o before r s).irq = s.irq := by cases o <;> simp [rmwStore]
@[simp] theorem rmwStore_breakpoint : (rmwStore o before r s).breakpoint = s.breakpoint := by
  cases o <;> simp [rmwStore]
@[simp] theorem rmwStore_params : (rmwStore o before r s).params = s.params := by cases o <;> simp [rmwStore]
@[simp] theorem flag_rmwStore (g : Flag) : (rmwStore o before r s).flag g = s.flag g :=
  State.flag_congr (rmwStore_p o before r s) g

end

/-! ### What a shift, an increment and an index move change and leave unchanged -/

/-- A shift answers a next state: its operand takes the result, N, Z and C are set, and of the rest only pc and the
counter change (R150). -/
theorem shift_shifts (o : Rmw) (f : Byte → Shift) (s : State) :
    ∃ t, shift o f s = .next t ∧ Shifts o (f (rmwValue o s)).result (f (rmwValue o s)).carry s t ∧
      Retires (1 + o.mode.operandBytes) (rmwCost o) s t := by
  refine ⟨_, shift_eq s o f, ⟨?_, nz_of_flags (by simp) (by simp), by simp, fun g hg => ?_, by simp, by simp, by simp⟩,
    retires_of_fields (by simp) (by simp) (by simp)⟩
  · cases o with
    | accumulator => exact ⟨rfl, sameBytes_of_stores rfl rfl⟩
    | mem m => exact ⟨by simp [rmwStore], stores_of_write (by simp [rmwStore, State.write_ram])
        (by simp [rmwStore, State.write_cart])⟩
  · simp only [List.mem_cons, List.not_mem_nil, or_false, not_or] at hg
    obtain ⟨hn, hz, hc⟩ := hg
    by_cases hu : g = .u
    · simp [hu]
    · simp [hn, hz, hu, Ne.symm hc]

/-- A read-modify-write that sets N and Z from its result answers a next state: the result is stored, and of the
registers and the other flags only pc changes (R150). -/
theorem modifyMem_setNZ_stores (m : Addr) (f : Byte → Byte) (s : State) :
    ∃ t, modifyMem m f State.setNZ s = .next t ∧ Stores (effectiveAddress m s) (f (memValue m s)) s t ∧
      NZ (f (memValue m s)) t ∧ t.a = s.a ∧ t.x = s.x ∧ t.y = s.y ∧ t.sp = s.sp ∧ SameFlags [.n, .z] s t ∧
      Retires (1 + m.mode.operandBytes) (modifyBase m) s t := by
  refine ⟨_, modifyMem_eq s m f State.setNZ, stores_of_write (by simp [State.write_ram]) (by simp [State.write_cart]),
    nz_of_flags (by simp) (by simp), by simp, by simp, by simp, by simp, fun g hg => ?_,
    retires_of_fields (by simp) (by simp) (by simp)⟩
  simp only [List.mem_cons, List.not_mem_nil, or_false, not_or] at hg
  simp [hg]

/-- INX and DEX load x with the Byte `v` (R157, R159). -/
theorem retire_loadX (v : Byte) (s : State) :
    ∃ t, retire .implied 2 (State.loadX v) s = .next t ∧ t.x = v ∧ NZ t.x t ∧ t.y = s.y ∧ t.a = s.a ∧ t.sp = s.sp ∧
      SameFlags [.n, .z] s t ∧ SameBytes s t ∧ Retires 1 2 s t := by
  obtain ⟨hnz, hframe⟩ := setNZ_frame s 1 2 s.a v s.y v
  exact ⟨_, rfl, rfl, hnz, rfl, rfl, rfl, hframe⟩

/-- INY and DEY load y with the Byte `v` (R158, R160). -/
theorem retire_loadY (v : Byte) (s : State) :
    ∃ t, retire .implied 2 (State.loadY v) s = .next t ∧ t.y = v ∧ NZ t.y t ∧ t.x = s.x ∧ t.a = s.a ∧ t.sp = s.sp ∧
      SameFlags [.n, .z] s t ∧ SameBytes s t ∧ Retires 1 2 s t := by
  obtain ⟨hnz, hframe⟩ := setNZ_frame s 1 2 s.a s.x v v
  exact ⟨_, rfl, rfl, hnz, rfl, rfl, rfl, hframe⟩

/-! ### The opcode lines -/

/-- The base cost of a shift, rotate, INC or DEC in each mode; none pays for a page crossing (R75, R150). The modes
such an instruction does not have, which stand in no line, take a value that is not used. -/
def modifyClass : Mode → Nat × Bool
  | .zeroPage => (5, false)
  | .zeroPageX | .zeroPageY | .absolute => (6, false)
  | .absoluteX | .absoluteY => (7, false)
  | .indexedIndirect | .indirectIndexed => (8, false)
  | .accumulator | .immediate | .implied | .relative | .indirect => (2, false)

theorem rmw_opcode_eq (F : Forms) (o : Rmw) : o.opcode F = opcodeIn F o.mode := by
  cases o with
  | accumulator => rfl
  | mem m => exact addr_opcode_eq F m

theorem modifyBase_eq (i : Instr) (m : Addr) (s : State) : modifyBase m = classCost (modifyClass m.mode) i s := by
  cases m <;> rfl

theorem rmwCost_eq (i : Instr) (o : Rmw) (s : State) : rmwCost o = classCost (modifyClass o.mode) i s := by
  cases o with
  | accumulator => rfl
  | mem m => exact modifyBase_eq i m s

section

variable {line : List Form} {F : Forms} {i : Instr}

/-- A read-modify-write is listed in a line that agrees with its opcodes and the costs of a read-modify-write. -/
theorem listed_of_rmw {o : Rmw} (hline : Agrees line F modifyClass) (hmode : i.mode = o.mode)
    (hwf : ∀ u, i.wf u = true ↔ o.mode ∈ line.map Form.mode) (hop : i.opcode = o.opcode F)
    (hcost : ∀ s, ∃ t, exec i s = .next t ∧ t.cycles = s.cycles + BitVec.ofNat 64 (rmwCost o)) : Listed line i := by
  rw [← hmode] at hwf
  refine listed_of_agrees hline hwf (by rw [hop, hmode, rmw_opcode_eq]) fun s => ?_
  rw [hmode, ← rmwCost_eq]
  exact hcost s

/-- An instruction without operand is listed in the line of its one opcode. -/
theorem listed_of_implied {op : Byte} {cost : Nat} (hmode : i.mode = .implied) (hwf : ∀ u, i.wf u = true)
    (hop : i.opcode = some op)
    (hcost : ∀ s, ∃ t, exec i s = .next t ∧ t.cycles = s.cycles + BitVec.ofNat 64 cost) :
    Listed [⟨.implied, op, cost, false⟩] i := by
  refine ⟨fun u => iff_of_true (hwf u) ⟨_, List.mem_singleton_self _, hmode.symm⟩, fun f hf _ => ?_⟩
  obtain rfl := List.mem_singleton.mp hf
  exact ⟨by rw [encode, hop, Option.map_some], hcost⟩

end

theorem shift_cycles (o : Rmw) (f : Byte → Shift) (s : State) :
    ∃ t, shift o f s = .next t ∧ t.cycles = s.cycles + BitVec.ofNat 64 (rmwCost o) :=
  ⟨_, shift_eq s o f, by simp⟩

theorem modifyMem_setNZ_cycles (m : Addr) (f : Byte → Byte) (s : State) :
    ∃ t, modifyMem m f State.setNZ s = .next t ∧ t.cycles = s.cycles + BitVec.ofNat 64 (modifyBase m) :=
  ⟨_, modifyMem_eq s m f State.setNZ, by simp⟩

theorem agrees_asl : Agrees Line.asl Forms.asl modifyClass := by unfold Agrees; decide
theorem agrees_lsr : Agrees Line.lsr Forms.lsr modifyClass := by unfold Agrees; decide
theorem agrees_rol : Agrees Line.rol Forms.rol modifyClass := by unfold Agrees; decide
theorem agrees_ror : Agrees Line.ror Forms.ror modifyClass := by unfold Agrees; decide
theorem agrees_inc : Agrees Line.inc Forms.inc modifyClass := by unfold Agrees; decide
theorem agrees_dec : Agrees Line.dec Forms.dec modifyClass := by unfold Agrees; decide

theorem listed_asl (o : Rmw) : Listed Line.asl (.asl o) :=
  listed_of_rmw agrees_asl rfl (fun _ => decide_eq_true_iff) rfl fun s => shift_cycles o shiftLeft s

theorem listed_lsr (o : Rmw) : Listed Line.lsr (.lsr o) :=
  listed_of_rmw agrees_lsr rfl (fun _ => decide_eq_true_iff) rfl fun s => shift_cycles o shiftRight s

theorem listed_rol (o : Rmw) : Listed Line.rol (.rol o) :=
  listed_of_rmw agrees_rol rfl (fun _ => decide_eq_true_iff) rfl fun s => shift_cycles o (rotateLeft (s.flag .c)) s

theorem listed_ror (o : Rmw) : Listed Line.ror (.ror o) :=
  listed_of_rmw agrees_ror rfl (fun _ => decide_eq_true_iff) rfl fun s => shift_cycles o (rotateRight (s.flag .c)) s

theorem listed_inc (m : Addr) : Listed Line.inc (.inc m) :=
  listed_of_rmw (o := .mem m) agrees_inc rfl (fun _ => decide_eq_true_iff) rfl
    fun s => modifyMem_setNZ_cycles m (· + 1) s

theorem listed_dec (m : Addr) : Listed Line.dec (.dec m) :=
  listed_of_rmw (o := .mem m) agrees_dec rfl (fun _ => decide_eq_true_iff) rfl
    fun s => modifyMem_setNZ_cycles m (· - 1) s

theorem listed_inx : Listed Line.inx .inx := listed_of_implied rfl (fun _ => rfl) rfl fun _ => ⟨_, rfl, rfl⟩
theorem listed_iny : Listed Line.iny .iny := listed_of_implied rfl (fun _ => rfl) rfl fun _ => ⟨_, rfl, rfl⟩
theorem listed_dex : Listed Line.dex .dex := listed_of_implied rfl (fun _ => rfl) rfl fun _ => ⟨_, rfl, rfl⟩
theorem listed_dey : Listed Line.dey .dey := listed_of_implied rfl (fun _ => rfl) rfl fun _ => ⟨_, rfl, rfl⟩

/-! ### The obligations -/

/-- What the obligation on shifts says of an instruction that is `shift` by `f`, once the result and the carry of `f`
are known in arithmetic. -/
theorem exec_shifts {i : Instr} {o : Rmw} {f : Byte → Shift} {s : State} {r : Nat} {carry : Bool}
    (hmode : i.mode = o.mode) (hexec : exec i s = shift o f s) (hr : (f (rmwValue o s)).result.toNat = r)
    (hc : (f (rmwValue o s)).carry = carry) :
    ∃ t, exec i s = .next t ∧ Shifts o (BitVec.ofNat 8 r) carry s t ∧ r < 256 ∧ Retires i.length (rmwCost o) s t := by
  rw [ofNat_eq_of_toNat_eq hr, hexec, Instr.length, hmode, ← hr, ← hc]
  obtain ⟨t, ht, hshifts, hret⟩ := shift_shifts o f s
  exact ⟨t, ht, hshifts, BitVec.isLt _, hret⟩

/-- Settles O42: each of the four is `shift`, by a function whose result and carry are those of the arithmetic. -/
theorem shiftsMoveOneBit : Obligations.ShiftsMoveOneBit := by
  intro o s i r carry line v c h
  simp only [List.mem_cons, List.not_mem_nil, or_false, Prod.mk.injEq] at h
  obtain ⟨rfl, rfl, rfl, rfl⟩ | ⟨rfl, rfl, rfl, rfl⟩ | ⟨rfl, rfl, rfl, rfl⟩ | ⟨rfl, rfl, rfl, rfl⟩ := h
  · exact ⟨listed_asl o, exec_shifts rfl rfl (shiftLeft_toNat v) (getLsbD_seven_eq_decide v)⟩
  · exact ⟨listed_lsr o, exec_shifts rfl rfl (shiftRight_toNat v) (getLsbD_zero_eq_decide v)⟩
  · exact ⟨listed_rol o, exec_shifts rfl rfl (rotateLeft_toNat (s.flag .c) v) (getLsbD_seven_eq_decide v)⟩
  · exact ⟨listed_ror o, exec_shifts rfl rfl (rotateRight_toNat (s.flag .c) v).1 (getLsbD_zero_eq_decide v)⟩

/-- Settles O43: both are the read-modify-write of `modifyMem_setNZ_stores`, by the Byte's successor and predecessor. -/
theorem incDecMemoryByOne : Obligations.IncDecMemoryByOne := by
  intro m s i r line h
  simp only [List.mem_cons, List.not_mem_nil, or_false, Prod.mk.injEq] at h
  obtain ⟨rfl, rfl, rfl⟩ | ⟨rfl, rfl, rfl⟩ := h
  · rw [ofNat_eq_of_toNat_eq (toNat_add_one (memValue m s))]
    exact ⟨listed_inc m, modifyMem_setNZ_stores m (· + 1) s⟩
  · rw [ofNat_eq_of_toNat_eq (toNat_sub_one (memValue m s))]
    exact ⟨listed_dec m, modifyMem_setNZ_stores m (· - 1) s⟩

/-- Settles O44: each loads its register with the successor or the predecessor of the Byte it held. -/
theorem indexStepsByOne : Obligations.IndexStepsByOne := by
  intro s
  refine ⟨listed_inx, listed_iny, listed_dex, listed_dey, ?_, ?_, ?_, ?_⟩
  · rw [← toNat_add_one]
    obtain ⟨t, ht, hx, hframe⟩ := retire_loadX (s.x + 1) s
    exact ⟨t, ht, congrArg BitVec.toNat hx, hframe⟩
  · rw [← toNat_add_one]
    obtain ⟨t, ht, hy, hframe⟩ := retire_loadY (s.y + 1) s
    exact ⟨t, ht, congrArg BitVec.toNat hy, hframe⟩
  · rw [← toNat_sub_one]
    obtain ⟨t, ht, hx, hframe⟩ := retire_loadX (s.x - 1) s
    exact ⟨t, ht, congrArg BitVec.toNat hx, hframe⟩
  · rw [← toNat_sub_one]
    obtain ⟨t, ht, hy, hframe⟩ := retire_loadY (s.y - 1) s
    exact ⟨t, ht, congrArg BitVec.toNat hy, hframe⟩

end Sys2Proof.Proofs.ShiftIncDec
end

section
/-! PROOFS. The jump, the call and the return (spec/44_branch_jump.md R179-R181): each meaning as one equation, and the
Word a call pushes read back by the pops after it. -/

namespace Sys2Proof.Proofs.JumpCall

open Sys2Proof Sys2Proof.Machine Sys2Proof.Proofs.ShiftIncDec

/-! ### The opcode lines -/

/-- An instruction every configuration maps is listed in a line with one entry for its mode, without a `+` mark, that
has its opcode and its cost. -/
theorem listed_of_only_form {line : List Form} {i : Instr} {f : Form} (hf : f ∈ line)
    (honly : ∀ g ∈ line, g.mode = f.mode → g = f) (hplus : f.plus = false) (hmode : i.mode = f.mode)
    (hwf : ∀ u, i.wf u = true) (hop : i.opcode = some f.opcode)
    (hcost : ∀ s, ∃ t, exec i s = .next t ∧ t.cycles = s.cycles + BitVec.ofNat 64 f.base) : Listed line i := by
  refine ⟨fun u => iff_of_true (hwf u) ⟨f, hf, hmode.symm⟩, fun g hg hgm => ?_⟩
  obtain rfl := honly g hg (hgm.trans hmode)
  rw [hplus]
  exact ⟨by rw [encode, hop, Option.map_some], hcost⟩

theorem listed_jmp_absolute (w : Word) : Listed Line.jmp (.jmp (.absolute w)) :=
  listed_of_only_form (f := ⟨.absolute, 0x4C, 3, false⟩) (by decide) (by decide) rfl rfl (fun _ => rfl) rfl
    fun _ => ⟨_, rfl, rfl⟩

theorem listed_jmp_indirect (w : Word) : Listed Line.jmp (.jmp (.indirect w)) :=
  listed_of_only_form (f := ⟨.indirect, 0x6C, 5, false⟩) (by decide) (by decide) rfl rfl (fun _ => rfl) rfl
    fun _ => ⟨_, rfl, rfl⟩

/-- JSR pushes the address two past its opcode, which is that of its last byte (R180). -/
theorem exec_jsr (w : Word) (s : State) :
    exec (.jsr w) s = .next ((((s.advance 3).pushWord (s.pc + 2)).jump w).charge 6) := by
  have hlast : (s.advance 3).pc - 1 = s.pc + 2 := by
    rw [State.advance_pc]
    bv_omega
  rw [← hlast]
  rfl

theorem listed_jsr (w : Word) : Listed Line.jsr (.jsr w) :=
  listed_of_only_form (f := ⟨.absolute, 0x20, 6, false⟩) (by decide) (by decide) rfl rfl (fun _ => rfl) rfl
    fun s => ⟨_, exec_jsr w s, by simp⟩

theorem listed_rts : Listed Line.rts .rts := listed_of_implied rfl (fun _ => rfl) rfl fun _ => ⟨_, rfl, rfl⟩

/-! ### The pointer of an indirect jump -/

/-- The place after a pointer in the pointer's own page (R91). -/
theorem word_lo_succ_hi (w : Word) :
    word (lo w + 1) (hi w) = BitVec.ofNat 16 (w.toNat / 256 * 256 + (w.toNat + 1) % 256) := by
  apply BitVec.eq_of_toNat_eq
  rw [toNat_word, toNat_add_one, toNat_lo, toNat_hi, BitVec.toNat_ofNat]
  have hw := w.isLt
  omega

/-! ### A pushed Word and the pops after it -/

/-- The two cells of a pushed Word (R58), where RAM is in canonical form. -/
theorem read_pushWord_cells (s : State) (w : Word) (hw : Memory.wf 0x800 s.ram = true) :
    (s.pushWord w).read (stackAddr s.sp) = hi w ∧ (s.pushWord w).read (stackAddr (s.sp - 1)) = lo w := by
  rw [State.read_pushWord s w _ hw, State.read_pushWord s w _ hw, sameCell_stackAddr, sameCell_stackAddr]
  constructor <;> simp

/-- The Word popped right after a push is the one pushed (R58), where RAM is in canonical form. -/
theorem topWord_pushWord (s : State) (w : Word) (hw : Memory.wf 0x800 s.ram = true) :
    (s.pushWord w).topWord 1 = w := by
  obtain ⟨hhi, hlo⟩ := read_pushWord_cells s w hw
  have h1 : s.sp - 2 + BitVec.ofNat 8 1 = s.sp - 1 := by bv_omega
  have h2 : s.sp - 2 + BitVec.ofNat 8 (1 + 1) = s.sp := by bv_omega
  rw [State.topWord, State.top, State.top, State.pushWord_sp, h1, h2, hlo, hhi, word_lo_hi]

/-- RTS goes one past the Word on top of the stack (R181). -/
theorem exec_rts (s : State) :
    exec .rts s = .next { s with pc := s.topWord 1 + 1, sp := s.sp + 2, cycles := s.cycles + 6 } := rfl

/-- An RTS after a JSR continues at the instruction after the JSR, with the stack pointer of before it (R181). -/
theorem exec_rts_after_jsr (w : Word) (s : State) (hs : Sound s) :
    ∃ t u, exec (.jsr w) s = .next t ∧ exec .rts t = .next u ∧ u.pc = s.pc + 3 ∧ u.sp = s.sp := by
  obtain ⟨hram, -, -⟩ := hs
  refine ⟨_, _, exec_jsr w s, exec_rts _, ?_, ?_⟩
  · calc ((s.advance 3).pushWord (s.pc + 2)).topWord 1 + 1
      _ = s.pc + 2 + 1 := by rw [topWord_pushWord (s.advance 3) _ hram]
      _ = s.pc + 3 := by bv_omega
  · calc ((s.advance 3).pushWord (s.pc + 2)).sp + 2
      _ = s.sp - 2 + 2 := by rw [State.pushWord_sp, State.advance_sp]
      _ = s.sp := BitVec.sub_add_cancel s.sp 2

/-! ### The obligations -/

/-- Settles O46: JMP retires with pc at its address, whose high byte for a pointer lies at `word_lo_succ_hi`. -/
theorem jmpReadsPointerInItsPage : Obligations.JmpReadsPointerInItsPage := by
  intro w s
  refine ⟨listed_jmp_absolute w, listed_jmp_indirect w, rfl, s.readInPage w, ?_, rfl⟩
  rw [← word_lo_succ_hi, State.readInPage, toNat_word]

/-- Settles O47: JSR is a jump from the state with the Word pushed, which is stored in the two cells of
`read_pushWord_cells`. -/
theorem jsrPushesReturnAddress : Obligations.JsrPushesReturnAddress := by
  intro w s
  refine ⟨listed_jsr w, _, exec_jsr w s, rfl, by simp, by simp, by simp, by simp, by simp, fun g _ => by simp,
    ⟨by simp, by simp, by simp, by simp, by simp, by simp⟩, ?_, ?_⟩
  · exact fun addr hfirst hsecond => State.read_pushWord_other (s.advance 3) (s.pc + 2) addr hfirst hsecond
  · rintro ⟨hram, -, -⟩
    exact read_pushWord_cells (s.advance 3) (s.pc + 2) hram

/-- Settles O48: RTS pops the Word of `exec_rts`, and after a JSR that is the one `topWord_pushWord` reads back. -/
theorem rtsReturnsPastPoppedWord : Obligations.RtsReturnsPastPoppedWord :=
  fun s => ⟨listed_rts, exec_rts s, fun w hs => exec_rts_after_jsr w s hs⟩

end Sys2Proof.Proofs.JumpCall
end

section
/-! PROOFS. The pushes and the transfers (spec/45_stack_flag_transfer.md R190, R191, R201-R206): a push is one bus write
at the stack address and sp one down, and a transfer is a register written, with N and Z set but for TXS. -/

namespace Sys2Proof.Proofs.StackTransfer

open Sys2Proof Sys2Proof.Machine Sys2Proof.Proofs.LoadStore Sys2Proof.Proofs.ShiftIncDec

/-! ### The opcode lines -/

theorem listed_pha : Listed Line.pha .pha := listed_of_implied rfl (fun _ => rfl) rfl fun s => ⟨_, rfl, by simp⟩
theorem listed_php : Listed Line.php .php := listed_of_implied rfl (fun _ => rfl) rfl fun s => ⟨_, rfl, by simp⟩
theorem listed_tax : Listed Line.tax .tax := listed_of_implied rfl (fun _ => rfl) rfl fun _ => ⟨_, rfl, rfl⟩
theorem listed_tay : Listed Line.tay .tay := listed_of_implied rfl (fun _ => rfl) rfl fun _ => ⟨_, rfl, rfl⟩
theorem listed_txa : Listed Line.txa .txa := listed_of_implied rfl (fun _ => rfl) rfl fun _ => ⟨_, rfl, rfl⟩
theorem listed_tya : Listed Line.tya .tya := listed_of_implied rfl (fun _ => rfl) rfl fun _ => ⟨_, rfl, rfl⟩
theorem listed_tsx : Listed Line.tsx .tsx := listed_of_implied rfl (fun _ => rfl) rfl fun _ => ⟨_, rfl, rfl⟩
theorem listed_txs : Listed Line.txs .txs := listed_of_implied rfl (fun _ => rfl) rfl fun _ => ⟨_, rfl, rfl⟩

/-! ### A push -/

/-- PHA and PHP push the Byte `v`: it is stored at the stack address, sp goes one down, and of the other registers and
the flags only pc changes (R190, R191). -/
theorem retire_push (v : Byte) (s : State) :
    ∃ t, retire .implied 3 (State.push v) s = .next t ∧ Stores (stackAddr s.sp) v s t ∧ t.sp = s.sp - 1 ∧ t.a = s.a ∧
      t.x = s.x ∧ t.y = s.y ∧ SameFlags [] s t ∧ Retires 1 3 s t := by
  refine ⟨_, retire_eq s .implied 3 _, stores_of_write ?_ ?_, by simp, by simp, by simp, by simp, fun g _ => by simp,
    retires_of_fields (by simp [Mode.operandBytes]) (by simp) (by simp)⟩
  · simp [State.push_ram, State.write_ram]
  · simp

/-! ### The obligations -/

/-- Settles O52: both push with the effect of `retire_push`, PHA the accumulator and PHP the status byte with bits 4 and
5 set. -/
theorem pushesWriteThenDecrement : Obligations.PushesWriteThenDecrement := by
  intro s i v line h
  simp only [List.mem_cons, List.not_mem_nil, or_false, Prod.mk.injEq] at h
  obtain ⟨rfl, rfl, rfl⟩ | ⟨rfl, rfl, rfl⟩ := h
  · exact ⟨listed_pha, stackAddr_toNat s.sp, retire_push s.a s⟩
  · exact ⟨listed_php, stackAddr_toNat s.sp, retire_push s.statusPushed s⟩

/-- Settles O55: a transfer that sets N and Z writes one register and has the frame of `setNZ_frame`; TXS writes sp
alone. -/
theorem transfersCopyRegister : Obligations.TransfersCopyRegister := by
  intro s
  refine ⟨listed_tax, listed_tay, listed_txa, listed_tya, listed_tsx, listed_txs, ?_, ?_, ?_, ?_, ?_, ?_⟩
  · obtain ⟨hnz, hflags, hframe⟩ := setNZ_frame s 1 2 s.a s.a s.y s.a
    exact ⟨_, rfl, rfl, hnz, hflags, rfl, rfl, rfl, hframe⟩
  · obtain ⟨hnz, hflags, hframe⟩ := setNZ_frame s 1 2 s.a s.x s.a s.a
    exact ⟨_, rfl, rfl, hnz, hflags, rfl, rfl, rfl, hframe⟩
  · obtain ⟨hnz, hflags, hframe⟩ := setNZ_frame s 1 2 s.x s.x s.y s.x
    exact ⟨_, rfl, rfl, hnz, hflags, rfl, rfl, rfl, hframe⟩
  · obtain ⟨hnz, hflags, hframe⟩ := setNZ_frame s 1 2 s.y s.x s.y s.y
    exact ⟨_, rfl, rfl, hnz, hflags, rfl, rfl, rfl, hframe⟩
  · obtain ⟨hnz, hflags, hframe⟩ := setNZ_frame s 1 2 s.a s.sp s.y s.sp
    exact ⟨_, rfl, rfl, hnz, hflags, rfl, rfl, rfl, hframe⟩
  · exact ⟨_, rfl, rfl, fun _ _ => rfl, rfl, rfl, rfl, sameBytes_of_stores rfl rfl,
      retires_of_fields rfl rfl ⟨rfl, rfl, rfl, rfl, rfl⟩⟩

end Sys2Proof.Proofs.StackTransfer
end

section
/-! PROOFS. The decoder and the encoder are inverse (spec/30_encoding.md R70-R78). Each cell of the map builds a
well-formed term of its own opcode, mode and operand bytes (`faithful_of_lookup`), each well-formed term is one that a
cell builds (`exists_cell`), and the opcodes without a cell are the listed ones (`lookup_eq_none_iff`). -/

namespace Sys2Proof.Proofs.Encoding

open Sys2Proof Sys2Proof.Machine

/-! ### What a cell of the map builds -/

/-- The operand bytes of the term that a cell of this mode builds from `b1` and `b2`, as the encoder writes them. -/
def operandStream (m : Mode) (b1 b2 : Byte) : List Byte :=
  match m.operandBytes with
  | 0 => []
  | 1 => [b1]
  | _ => [lo (word b1 b2), hi (word b1 b2)]

theorem operandStream_eq_take (m : Mode) (b1 b2 : Byte) : operandStream m b1 b2 = [b1, b2].take m.operandBytes := by
  cases m <;> simp [operandStream, Mode.operandBytes]

/-- A cell builds, from any two bytes, a term of its opcode and mode whose operand bytes are those the mode consumes,
and it does not look at the others; the term is well formed wherever the cell is mapped (R73-R75, R77). -/
structure Faithful (op : Byte) (e : Entry) : Prop where
  opcode : ∀ b1 b2, (e.build b1 b2).opcode = some op
  mode : ∀ b1 b2, (e.build b1 b2).mode = e.mode
  operands : ∀ b1 b2, (e.build b1 b2).operands = operandStream e.mode b1 b2
  ignores : ∀ b1 b2 rest, e.build (([b1, b2].take e.mode.operandBytes ++ rest).getD 0 0)
    (([b1, b2].take e.mode.operandBytes ++ rest).getD 1 0) = e.build b1 b2
  wf_nestest : ∀ b1 b2, (e.build b1 b2).wf .nestest = true
  wf_off : ∀ b1 b2, (!e.official || (e.build b1 b2).wf .off) = true

theorem faithful_dispatchROM : RowHolds Faithful 0x00 dispatchROM := by
  apply rowHolds_dispatchROM <;>
    simp only [rom0, rom1, rom2, rom3, rom4, rom5, rom6, rom7, rom8, rom9, romA, romB, romC, romD, romE, romF,
      RowHolds, and_true] <;>
    and_intros <;>
    exact ⟨fun _ _ => rfl, fun _ _ => rfl, fun _ _ => rfl, fun _ _ _ => rfl, fun _ _ => rfl, fun _ _ => rfl⟩

/-- The cells of R78 are empty, those of R77 unofficial, and the others official. -/
theorem official_dispatchROM : ∀ op : Byte, (dispatchROM.getD op.toNat none).map Entry.official =
    if op ∈ alwaysUnmapped then none else if op ∈ unofficialOpcodes then some false else some true := by decide

/-- The opcodes without a mapped cell are those of R78 and, with UNOFFICIAL = off, those of R77 (R102). -/
theorem lookup_eq_none_iff (u : Unofficial) (op : Byte) :
    lookup u op = none ↔ op ∈ alwaysUnmapped ∨ u = .off ∧ op ∈ unofficialOpcodes := by
  have hcell := official_dispatchROM op
  unfold lookup
  cases hrom : dispatchROM.getD op.toNat none with
  | none =>
    rw [hrom] at hcell
    split at hcell
    · next h => simp [h]
    · split at hcell <;> cases hcell
  | some e =>
    rw [hrom] at hcell
    split at hcell
    · cases hcell
    · next h =>
      have he : e.official = false ↔ op ∈ unofficialOpcodes := by
        split at hcell <;> simp_all
      simp [h, he, and_comm]

/-! ### Every well-formed term is one a cell builds -/

/-- The memory operand of the form of `m` that a cell builds from two bytes (R71). -/
def addrOfBytes (m : Addr) (b1 b2 : Byte) : Addr :=
  match m with
  | .zeroPage _ => .zeroPage b1
  | .zeroPageX _ => .zeroPageX b1
  | .zeroPageY _ => .zeroPageY b1
  | .absolute _ => .absolute (word b1 b2)
  | .absoluteX _ => .absoluteX (word b1 b2)
  | .absoluteY _ => .absoluteY (word b1 b2)
  | .indexedIndirect _ => .indexedIndirect b1
  | .indirectIndexed _ => .indirectIndexed b1

theorem exists_word_bytes (w : Word) : ∃ b1 b2, word b1 b2 = w := ⟨_, _, word_lo_hi w⟩

theorem exists_addr_bytes (m : Addr) : ∃ form b1 b2, addrOfBytes form b1 b2 = m := by
  cases m with
  | zeroPage b => exact ⟨.zeroPage b, b, 0, rfl⟩
  | zeroPageX b => exact ⟨.zeroPageX b, b, 0, rfl⟩
  | zeroPageY b => exact ⟨.zeroPageY b, b, 0, rfl⟩
  | absolute w => exact ⟨.absolute w, _, _, congrArg Addr.absolute (word_lo_hi w)⟩
  | absoluteX w => exact ⟨.absoluteX w, _, _, congrArg Addr.absoluteX (word_lo_hi w)⟩
  | absoluteY w => exact ⟨.absoluteY w, _, _, congrArg Addr.absoluteY (word_lo_hi w)⟩
  | indexedIndirect b => exact ⟨.indexedIndirect b, b, 0, rfl⟩
  | indirectIndexed b => exact ⟨.indirectIndexed b, b, 0, rfl⟩

/-- The unofficial NOPs of each operand form have the cells of R211. -/
theorem nop_cells (arg : NopArg) : ∀ op ∈ nopOpcodes arg.mode,
    ∃ e b1 b2, lookup .nestest op = some e ∧ e.build b1 b2 = .nopU op arg := by
  cases arg with
  | implied =>
    simp only [NopArg.mode, nopOpcodes, List.forall_mem_cons, List.not_mem_nil, false_implies, implies_true, and_true]
    and_intros <;> exact ⟨_, 0, 0, rfl, rfl⟩
  | immediate b =>
    simp only [NopArg.mode, nopOpcodes, List.forall_mem_cons, List.not_mem_nil, false_implies, implies_true, and_true]
    and_intros <;> exact ⟨_, b, 0, rfl, rfl⟩
  | mem m =>
    obtain ⟨form, b1, b2, rfl⟩ := exists_addr_bytes m
    cases form <;>
      simp only [addrOfBytes, NopArg.mode, Addr.mode, nopOpcodes, List.forall_mem_cons, List.not_mem_nil, false_implies,
        implies_true, and_true] <;>
      and_intros <;> exact ⟨_, b1, b2, rfl, rfl⟩

/-- A well-formed term that is no unmapped opcode has an opcode, and that opcode's cell builds the term. A form that the
instruction's rule does not list is not well formed, which `cases hwf` sees. -/
theorem exists_cell {u : Unofficial} {i : Instr} (hwf : i.wf u = true) (hi : ∀ op, i ≠ .unmapped op) :
    ∃ op e b1 b2, i.opcode = some op ∧ lookup u op = some e ∧ e.build b1 b2 = i := by
  cases i with
  | lda o | ldx o | ldy o | adc o | sbc o | and o | ora o | eor o | cmp o | cpx o | cpy o =>
    cases o with
    | immediate b => exact ⟨_, _, b, 0, rfl, rfl, rfl⟩
    | mem m =>
      obtain ⟨form, b1, b2, rfl⟩ := exists_addr_bytes m
      cases form <;> cases hwf <;> exact ⟨_, _, b1, b2, rfl, rfl, rfl⟩
  | asl o | lsr o | rol o | ror o =>
    cases o with
    | accumulator => exact ⟨_, _, 0, 0, rfl, rfl, rfl⟩
    | mem m =>
      obtain ⟨form, b1, b2, rfl⟩ := exists_addr_bytes m
      cases form <;> cases hwf <;> exact ⟨_, _, b1, b2, rfl, rfl, rfl⟩
  | sta m | stx m | sty m | bit m | inc m | dec m =>
    obtain ⟨form, b1, b2, rfl⟩ := exists_addr_bytes m
    cases form <;> cases hwf <;> exact ⟨_, _, b1, b2, rfl, rfl, rfl⟩
  | laxU m | saxU m | dcpU m | isbU m | sloU m | rlaU m | sreU m | rraU m =>
    obtain ⟨rfl, -⟩ := of_decide_eq_true hwf
    obtain ⟨form, b1, b2, rfl⟩ := exists_addr_bytes m
    cases form <;> cases hwf <;> exact ⟨_, _, b1, b2, rfl, rfl, rfl⟩
  | nopU op arg =>
    obtain ⟨rfl, hop⟩ := of_decide_eq_true hwf
    obtain ⟨e, b1, b2, hcell⟩ := nop_cells arg op hop
    exact ⟨op, e, b1, b2, rfl, hcell⟩
  | sbcU b =>
    obtain rfl := of_decide_eq_true hwf
    exact ⟨_, _, b, 0, rfl, rfl, rfl⟩
  | jmp t =>
    cases t with
    | absolute w | indirect w =>
      obtain ⟨b1, b2, rfl⟩ := exists_word_bytes w
      exact ⟨_, _, b1, b2, rfl, rfl, rfl⟩
  | jsr w =>
    obtain ⟨b1, b2, rfl⟩ := exists_word_bytes w
    exact ⟨_, _, b1, b2, rfl, rfl, rfl⟩
  | bcc d | bcs d | beq d | bne d | bmi d | bpl d | bvc d | bvs d => exact ⟨_, _, d, 0, rfl, rfl, rfl⟩
  | inx | iny | dex | dey | rts | rti | brk | pha | php | pla | plp | clc | sec | cli | sei | cld | sed | clv
  | tax | tay | txa | tya | tsx | txs | nop => exact ⟨_, _, 0, 0, rfl, rfl, rfl⟩
  | unmapped op => exact absurd rfl (hi op)

/-! ### The round trips -/

theorem operandBytes_le_two (m : Mode) : m.operandBytes ≤ 2 := by cases m <;> decide

/-- The first bytes of a list, at most two, from its first two. -/
theorem take_first_two {n : Nat} (hn : n ≤ 2) {l : List Byte} (hl : n ≤ l.length) :
    [l.getD 0 0, l.getD 1 0].take n = l.take n := by
  match l, n, hn with
  | _, 0, _ => rfl
  | b :: _, 1, _ => rfl
  | b :: c :: _, 2, _ => rfl
  | [b], 2, _ => simp at hl

theorem faithful_of_lookup {u : Unofficial} {op : Byte} {e : Entry} (hl : lookup u op = some e) : Faithful op e :=
  lookup_holds faithful_dispatchROM hl

theorem lengthOf_mapped {u : Unofficial} {op : Byte} {e : Entry} (hl : lookup u op = some e) :
    lengthOf u op = 1 + e.mode.operandBytes := by simp [lengthOf, hl]

theorem lengthOf_unmapped {u : Unofficial} {op : Byte} (hl : lookup u op = none) : lengthOf u op = 1 := by
  simp [lengthOf, hl]

/-- A mapped cell builds a well-formed term: an unofficial one is mapped under nestest alone (R77, R102). -/
theorem build_wf {u : Unofficial} {op : Byte} {e : Entry} (hl : lookup u op = some e) (b1 b2 : Byte) :
    (e.build b1 b2).wf u = true := by
  have hf := faithful_of_lookup hl
  cases u with
  | nestest => exact hf.wf_nestest b1 b2
  | off =>
    have ho : e.official = true := by
      unfold lookup at hl
      split at hl
      · cases hl
      · split at hl
        · cases hl
        · next h =>
          cases hl
          simpa using h
    simpa [ho] using hf.wf_off b1 b2

/-- A mapped cell builds no UNMAPPED: that would be well formed for an opcode without a cell alone (R78, R104). -/
theorem build_ne_unmapped {u : Unofficial} {op : Byte} {e : Entry} (hl : lookup u op = some e) (b1 b2 op' : Byte) :
    e.build b1 b2 ≠ .unmapped op' := by
  intro h
  have hop := (faithful_of_lookup hl).opcode b1 b2
  have hwf := build_wf hl b1 b2
  rw [h] at hop hwf
  cases hop
  exact Option.some_ne_none e (hl.symm.trans ((lookup_eq_none_iff u op).mpr (of_decide_eq_true hwf)))

/-- Every opcode decodes to a well-formed term (R74, R102, R104). -/
theorem decodeBytes_wf (u : Unofficial) (op b1 b2 : Byte) : (decodeBytes u op b1 b2).wf u = true := by
  cases hl : lookup u op with
  | none =>
    rw [decodeBytes_unmapped hl]
    exact decide_eq_true ((lookup_eq_none_iff u op).mp hl)
  | some e =>
    rw [decodeBytes_mapped hl]
    exact build_wf hl b1 b2

/-- A cell's term decodes from its opcode and the operand bytes its mode consumes, whatever follows (R71). -/
theorem decode_build {u : Unofficial} {op : Byte} {e : Entry} (hl : lookup u op = some e) (b1 b2 : Byte)
    (rest : List Byte) :
    decode u (op :: (e.build b1 b2).operands ++ rest) = .ok (e.build b1 b2, rest) := by
  have hf := faithful_of_lookup hl
  have hlen : ([b1, b2].take e.mode.operandBytes).length = e.mode.operandBytes :=
    List.length_take_of_le (operandBytes_le_two e.mode)
  rw [hf.operands, operandStream_eq_take, List.cons_append, decode_cons, decodeBytes_mapped hl, hf.ignores,
    lengthOf_mapped hl, Nat.add_sub_cancel_left, List.drop_left' hlen]
  rw [lengthOf_mapped hl, List.length_append, hlen]
  omega

/-- Settles O2: a well-formed term is what its opcode's cell builds, or an unmapped opcode. -/
theorem decodeInvertsEncode : Obligations.DecodeInvertsEncode := by
  intro u i hwf
  by_cases hi : ∀ op, i ≠ .unmapped op
  · obtain ⟨op, e, b1, b2, hop, hl, rfl⟩ := exists_cell hwf hi
    exact ⟨_, by rw [encode, hop, Option.map_some], decode_build hl b1 b2⟩
  · obtain ⟨op, rfl⟩ := not_forall_not.mp hi
    have hl := (lookup_eq_none_iff u op).mpr (of_decide_eq_true hwf)
    refine ⟨[op], rfl, fun rest => ?_⟩
    rw [List.singleton_append, decode_cons u op rest (by rw [lengthOf_unmapped hl]; omega), decodeBytes_unmapped hl,
      lengthOf_unmapped hl]
    rfl

/-- What a list decodes to is its opcode with the two bytes after it, and what is left is the list past its length. -/
theorem eq_of_decode {u : Unofficial} {bytes rest : List Byte} {i : Instr} (h : decode u bytes = .ok (i, rest)) :
    ∃ op l, bytes = op :: l ∧ lengthOf u op ≤ l.length + 1 ∧ i = decodeBytes u op (l.getD 0 0) (l.getD 1 0) ∧
      rest = l.drop (lengthOf u op - 1) := by
  cases bytes with
  | nil => cases h
  | cons op l =>
    by_cases hlen : lengthOf u op ≤ l.length + 1
    · rw [decode_cons u op l hlen] at h
      cases h
      exact ⟨op, l, rfl, hlen, rfl, rfl⟩
    · rw [decode, if_pos (by omega)] at h
      cases h

/-- Settles O3: the bytes consumed are the opcode and the operand bytes of the cell's mode. -/
theorem encodeInvertsDecode : Obligations.EncodeInvertsDecode := by
  intro u bytes i rest h
  obtain ⟨op, l, rfl, hlen, rfl, rfl⟩ := eq_of_decode h
  refine ⟨decodeBytes_wf u op _ _, ?_⟩
  cases hl : lookup u op with
  | none =>
    rw [decodeBytes_unmapped hl, lengthOf_unmapped hl]
    exact ⟨[op], rfl, rfl, rfl⟩
  | some e =>
    have hf := faithful_of_lookup hl
    rw [lengthOf_mapped hl] at hlen
    have hn : e.mode.operandBytes ≤ l.length := by omega
    refine ⟨op :: l.take e.mode.operandBytes, ?_, ?_, ?_⟩
    · rw [decodeBytes_mapped hl, encode, hf.opcode, Option.map_some, hf.operands, operandStream_eq_take,
        take_first_two (operandBytes_le_two e.mode) hn]
    · rw [lengthOf_mapped hl, Nat.add_sub_cancel_left, List.cons_append, List.take_append_drop]
    · rw [decodeBytes_mapped hl, hf.mode, List.length_cons, List.length_take_of_le hn, Nat.add_comm]

/-- Settles O4: an opcode with a cell decodes to a well-formed term, which UNMAPPED of a mapped opcode is not. -/
theorem unmappedOpcodesAreTheListed : Obligations.UnmappedOpcodesAreTheListed := by
  intro u op b1 b2
  refine ⟨fun h => ?_, fun h => decodeBytes_unmapped ((lookup_eq_none_iff u op).mpr h) b1 b2⟩
  have hwf := decodeBytes_wf u op b1 b2
  rw [h] at hwf
  exact of_decide_eq_true hwf

/-- Settles O1: each word is decoded by running the decoder on it. -/
theorem knownWordsDecode : Obligations.KnownWordsDecode := ⟨rfl, rfl, rfl, rfl, rfl, rfl, rfl, rfl, rfl, rfl⟩

end Sys2Proof.Proofs.Encoding
end

section
/-! PROOFS. The four things a step can be (spec/40_step.md R100, R104, R108, 60_exceptions.md R236-R240), the run loop
(70_reset_and_hazards.md R266), and power-on and reset (R260, R261). -/

namespace Sys2Proof.Proofs.StepKinds

open Sys2Proof Sys2Proof.Machine Sys2Proof.Proofs.Encoding

/-! ### Which of the four a step is -/

theorem step_halted {s : State} (h : s.halted = true) : step s = .next s := by
  simp [step, State.beforeFetch, h]

theorem step_nmi {s : State} (h : s.halted = false) (hn : s.nmiPending = true) :
    step s = .next ({ s with nmiPending := false }.interruptEntry Config.nmiVector) := by
  simp [step, State.beforeFetch, h, hn]

theorem step_irq {s : State} (h : s.halted = false) (hn : s.nmiPending = false) (hq : s.irq = true)
    (hi : s.flag .i = false) : step s = .next (s.interruptEntry Config.irqVector) := by
  simp [step, State.beforeFetch, h, hn, hq, hi]

theorem step_runs {s : State} (hs : RunsInstruction s) : step s = exec s.fetchInstr s := by
  obtain ⟨h, hn, hq⟩ := hs
  have hmask : (s.irq && !s.flag .i) = false := by
    cases hirq : s.irq with
    | false => rfl
    | true => rw [hq hirq]; rfl
  simp [step, State.beforeFetch, h, hn, hmask]

/-- The Boolean of a step is that it did not leave the core halted (R100). -/
theorem stepReturns_of_next {s t : State} (ht : step s = .next t) : s.stepReturns = !t.halted := by
  rw [State.stepReturns, ht]

/-- Settles O7: a halted core has its own state for next state. -/
theorem haltedStepChangesNothing : Obligations.HaltedStepChangesNothing := by
  intro s h
  refine ⟨step_halted h, ?_⟩
  rw [stepReturns_of_next (step_halted h), h]
  rfl

/-- Settles O6: the decoder on the three bytes at pc is the fetch. -/
theorem stepRunsDecodedInstruction : Obligations.StepRunsDecodedInstruction := by
  intro s i rest hs h
  obtain ⟨op, l, hbytes, -, rfl, -⟩ := eq_of_decode h
  obtain ⟨rfl, rfl⟩ := List.cons.inj hbytes
  exact ⟨decodeBytes_wf _ _ _ _, step_runs hs⟩

/-! ### The decode failure (R104) -/

/-- Settles O12: UNMAPPED is the decode failure. -/
theorem unmappedCompletesHalted : Obligations.UnmappedCompletesHalted :=
  fun _ s => congrArg Host.Outcome.next s.decodeFailure_spec

/-- Settles O11: an opcode without a cell is fetched as UNMAPPED. -/
theorem decodeFailureHaltsTheCore : Obligations.DecodeFailureHaltsTheCore := by
  intro s hs hl
  have ht : step s = .next s.decodeFailure := by
    rw [step_runs hs, State.fetchInstr, decodeBytes_unmapped hl]
    exact unmappedCompletesHalted _ s
  exact ⟨ht, stepReturns_of_next ht⟩

/-! ### The interrupt entries (R240) -/

/-- The entry of IRQ and NMI, in the words of claims. The vectors are not in RAM. -/
theorem interruptEntry_enters {vector : Word} (hv : ¬ vector < 0x2000#16) (hv' : ¬ vector + 1 < 0x2000#16)
    (s : State) :
    Enters s.pc ((s.status &&& 0xEF) ||| 0x20) vector s (s.interruptEntry vector) ∧
    Charges 7 s (s.interruptEntry vector) := by
  refine ⟨enterVector_enters s.pc s.statusInterrupted vector s hv hv', ?_⟩
  obtain ⟨-, -, -, -, hc, hh, hn, hi, hb, -, hp, -⟩ := s.enterVector_spec s.pc s.statusInterrupted vector
  exact ⟨congrArg (· + 7#64) hc, hh, hn, hi, hb, hp⟩

/-- Settles O9: the entry from the state with the latch cleared, which holds every Byte the entry reads or writes. -/
theorem nmiEntersThroughItsVector : Obligations.NmiEntersThroughItsVector := by
  intro s h hn
  obtain ⟨hv, -, -, hv', -⟩ := vector_not_in_ram
  obtain ⟨henters, hcycles, hhalted, hnmi, hhost⟩ := interruptEntry_enters hv hv' { s with nmiPending := false }
  refine ⟨_, step_nmi h hn, henters, hnmi, hhalted.trans h, hcycles, hhost, ?_⟩
  rw [stepReturns_of_next (step_nmi h hn), hhalted, h]
  rfl

/-- Settles O10: the entry through the vector of IRQ. -/
theorem irqEntersThroughItsVector : Obligations.IrqEntersThroughItsVector := by
  intro s h hn hq hi
  obtain ⟨-, hv, -, -, hv'⟩ := vector_not_in_ram
  obtain ⟨henters, hcharges⟩ := interruptEntry_enters hv hv' s
  refine ⟨_, step_irq h hn hq hi, henters, hcharges, ?_⟩
  obtain ⟨-, hhalted, -⟩ := hcharges
  rw [stepReturns_of_next (step_irq h hn hq hi), hhalted, h]
  rfl

/-- Where a held IRQ with I clear comes first, the next step takes it (R237, R238). -/
theorem takesHeldIrq (t : State) : TakesHeldIrq t := by
  intro h hn hq hi
  obtain ⟨u, hu, ⟨hvector, -, -, -, -, -, hflag, -⟩, -⟩ := irqEntersThroughItsVector t h hn hq hi
  exact ⟨u, hu, hvector, hflag⟩

/-! ### The run loop (R248, R266) -/

/-- Settles O22: while the core is not halted the loop goes on, and it stops in the first state that is. -/
theorem runEndsAsItSays : Obligations.RunEndsAsItSays := by
  intro fuel
  induction fuel with
  | zero =>
    intro s t e hs h
    cases h
    exact ⟨by simp [show s.halted = false from hs], by simp⟩
  | succ fuel ih =>
    intro s t e hs h
    rw [runLoop_succ] at h
    split at h
    · next hb =>
      cases h
      exact ⟨by simp [show s.halted = false from hs], fun _ => hb⟩
    · split at h
      · next u _ =>
        split at h
        · next hu =>
          cases h
          exact ⟨by simp [hu], by simp⟩
        · next hu => exact ih u t e (eq_false_of_ne_true hu) h
      · cases h
      · cases h

/-! ### Power-on and reset (R260, R261) -/

/-- A read outside RAM does not see what power-on or reset writes. -/
theorem loadsVector_outside_ram {vector : Word} (hv : ¬ vector < 0x2000#16) (hv' : ¬ vector + 1 < 0x2000#16)
    {s t u : State} (hc : t.cart = s.cart) (hpc : u.pc = t.readWord vector) : LoadsVector vector s u := by
  refine loadsVector_of_readWord (hpc.trans ?_)
  rw [State.readWord, State.readWord, State.read_outside_ram hc hv, State.read_outside_ram hc hv']

/-- Settles O19: each value is assigned, and the reset vector lies in the cartridge. -/
theorem powerOnLeavesTheseValues : Obligations.PowerOnLeavesTheseValues := by
  intro ramInit s
  have hstatus : (0x24 : Byte) ||| 0x20#8 = 0x24 := by decide
  exact ⟨rfl, rfl, rfl, rfl, hstatus, rfl, rfl, rfl, loadsVector_outside_ram (by decide) (by decide) rfl rfl, rfl,
    rfl, rfl, rfl⟩

/-- Settles O20: the blank cartridge reads 0x00 at the reset vector. -/
theorem resetIsAfterPowerOn : Obligations.ResetIsAfterPowerOn := ⟨rfl, rfl, rfl⟩

/-- Settles O21: of P `reset()` writes I alone, and it writes no Byte. -/
theorem resetCallChangesThese : Obligations.ResetCallChangesThese := by
  intro s
  have hflag (f : Flag) : s.resetCall.flag f = (s.setFlag .i true).flag f := State.flag_congr rfl f
  refine ⟨rfl, by simp [hflag], fun f hf => ?_, rfl, rfl, loadsVector_of_readWord rfl, rfl, rfl, rfl, rfl, rfl, rfl,
    rfl, sameBytes_of_stores rfl rfl⟩
  rw [hflag, State.flag_setFlag, if_neg (by simpa [eq_comm] using hf)]
  cases f <;> simp

end Sys2Proof.Proofs.StepKinds
end

section
/-! PROOFS. What every step does (spec/40_step.md R100-R106, 60_exceptions.md R238): it answers a next state, keeps the
invariant and the host's side, and charges what the opcode map says. -/

namespace Sys2Proof.Proofs.StepInvariants

open Sys2Proof Sys2Proof.Machine Sys2Proof.Proofs.ShiftIncDec Sys2Proof.Proofs.Encoding
  Sys2Proof.Proofs.StepKinds

/-! ### What an instruction charges -/

/-- The cycles R105 and R106 add for an instruction: its base cost, and one where it pays for a page crossing. Of a
branch it is the cost where it is not taken (R170). -/
def tableCost (i : Instr) (s : State) : Nat :=
  match i with
  | .lda o | .ldx o | .ldy o | .adc o | .sbc o | .and o | .ora o | .eor o | .cmp o | .cpx o | .cpy o => srcCost o s
  | .bit m | .laxU m => readCost m s
  | .sta m | .stx m | .sty m | .saxU m => storeBase m
  | .asl t | .lsr t | .rol t | .ror t => rmwCost t
  | .inc m | .dec m | .dcpU m | .isbU m | .sloU m | .rlaU m | .sreU m | .rraU m => modifyBase m
  | .nopU _ arg => nopCost arg s
  | .jmp t => jumpCost t
  | .bcc _ | .bcs _ | .beq _ | .bne _ | .bmi _ | .bpl _ | .bvc _ | .bvs _ | .sbcU _
  | .inx | .iny | .dex | .dey | .clc | .sec | .cli | .sei | .cld | .sed | .clv | .tax | .tay | .txa | .tya | .tsx | .txs
  | .nop => 2
  | .pha | .php => 3
  | .pla | .plp => 4
  | .jsr _ | .rts | .rti => 6
  | .brk => 7
  | .unmapped _ => 0

/-- Everything an instruction can do: it fails to decode, it is one of the branches, or it charges its table cost. -/
theorem exec_cases (i : Instr) (s : State) :
    (∃ op, i = .unmapped op) ∨ (i.mode = .relative ∧ ∃ taken d, exec i s = branch taken d s) ∨
    ∃ t, exec i s = .next t ∧ Charges (tableCost i s) s t := by
  cases i with
  | unmapped op => exact .inl ⟨op, rfl⟩
  | bcc d | bcs d | beq d | bne d | bmi d | bpl d | bvc d | bvs d => exact .inr (.inl ⟨rfl, _, d, rfl⟩)
  | lda | ldx | ldy | adc | sbc | and | ora | eor | cmp | cpx | cpy | bit | nopU | jmp | jsr | sbcU | sta | stx | sty
  | saxU | asl | lsr | rol | ror | inc | dec | dcpU | isbU | sloU | rlaU | sreU | rraU
  | inx | iny | dex | dey | pha | php | clc | sec | cli | sei | cld | sed | clv | tax | tay | txa | tya | tsx | nop =>
    exact .inr (.inr ⟨_, rfl, by simp [Charges, SameHostSide, tableCost]⟩)
  | brk => exact .inr (.inr ⟨_, rfl, by simp [Charges, SameHostSide, tableCost, State.enterVector]⟩)
  | laxU | txs | rts | pla | plp | rti => exact .inr (.inr ⟨_, rfl, rfl, rfl, rfl, rfl, rfl, rfl⟩)

/-! ### The costs of the opcode map -/

/-- A cell holds the cost of the instruction it builds: its base cost, and one on a page crossing where it is in the
penalty class (R75, R106). That is 2 to 8 cycles (R274). -/
structure HoldsCost (e : Entry) : Prop where
  cost : ∀ b1 b2 s, tableCost (e.build b1 b2) s =
    e.base + if e.penalty = true then (crossedBy (e.build b1 b2) s).toNat else 0
  two_le : 2 ≤ e.base
  le_eight : e.base + e.penalty.toNat ≤ 8

theorem holdsCost_dispatchROM : RowHolds (fun _ => HoldsCost) 0x00 dispatchROM := by
  apply rowHolds_dispatchROM <;>
    simp only [rom0, rom1, rom2, rom3, rom4, rom5, rom6, rom7, rom8, rom9, romA, romB, romC, romD, romE, romF,
      RowHolds, and_true] <;>
    and_intros <;>
    exact ⟨fun _ _ _ => rfl, by decide, by decide⟩

theorem holdsCost_of_lookup {u : Unofficial} {op : Byte} {e : Entry} (hl : lookup u op = some e) : HoldsCost e :=
  lookup_holds holdsCost_dispatchROM hl

theorem tableCost_build_bounds {u : Unofficial} {op : Byte} {e : Entry} (hl : lookup u op = some e) (b1 b2 : Byte)
    (s : State) : 2 ≤ tableCost (e.build b1 b2) s ∧ tableCost (e.build b1 b2) s ≤ 8 := by
  obtain ⟨hcost, hge, hle⟩ := holdsCost_of_lookup hl
  have hcrossed := (crossedBy (e.build b1 b2) s).toNat_le
  rw [hcost]
  cases hp : e.penalty with
  | false =>
    rw [hp] at hle
    exact ⟨hge, hle⟩
  | true =>
    rw [hp, Bool.toNat_true] at hle
    rw [if_pos rfl]
    omega

theorem branchCost_bounds (taken crossed : Bool) :
    2 ≤ branchCost taken crossed ∧ branchCost taken crossed ≤ 8 := by
  revert taken crossed
  decide

/-- Settles O5: an instruction that is no branch charges its table cost, which its cell holds. -/
theorem cyclesFollowTheOpcodeMap : Obligations.CyclesFollowTheOpcodeMap := by
  intro u op b1 b2 e s hl hb
  rw [decodeBytes_mapped hl, ← (holdsCost_of_lookup hl).cost b1 b2 s]
  rcases exec_cases (e.build b1 b2) s with ⟨op', hu⟩ | ⟨hrel, -⟩ | ⟨t, ht, hcycles, -⟩
  · exact absurd hu (build_ne_unmapped hl b1 b2 op')
  · exact absurd (((faithful_of_lookup hl).mode b1 b2).symm.trans hrel) hb
  · exact ⟨t, ht, hcycles⟩

/-- The instruction at pc fails to decode or charges 2 to 8 cycles (R274). -/
theorem fetched_cases {s t : State} (ht : exec s.fetchInstr s = .next t) :
    t = s.decodeFailure ∨ ∃ n, 2 ≤ n ∧ n ≤ 8 ∧ Charges n s t := by
  unfold State.fetchInstr at ht
  cases hl : lookup s.params.unofficial (s.read s.pc) with
  | none =>
    rw [decodeBytes_unmapped hl] at ht
    exact .inl (Host.Outcome.next.inj ht).symm
  | some e =>
    rw [decodeBytes_mapped hl] at ht
    right
    rcases exec_cases (e.build (s.read (s.pc + 1)) (s.read (s.pc + 2))) s with
      ⟨op, hu⟩ | ⟨-, taken, d, hbranch⟩ | ⟨t', ht', hcharge⟩
    · exact absurd hu (build_ne_unmapped hl _ _ op)
    · rw [hbranch, branch_eq] at ht
      cases ht
      obtain ⟨hge, hle⟩ := branchCost_bounds taken (crosses (branchTarget (s.pc + 2) d) (s.pc + 2))
      exact ⟨_, hge, hle, rfl, rfl, rfl, rfl, rfl, rfl⟩
    · rw [ht'] at ht
      cases ht
      obtain ⟨hge, hle⟩ := tableCost_build_bounds hl _ _ s
      exact ⟨_, hge, hle, hcharge⟩

/-- Settles O17: an interrupt entry charges 7 cycles, and the instruction at pc what `fetched_cases` says. -/
theorem stepChargesTwoToEightCycles : Obligations.StepChargesTwoToEightCycles := by
  intro s t hs ht
  have charged {n : Nat} {t : State} (hge : 2 ≤ n) (hle : n ≤ 8)
      (h : t.cycles = s.cycles + BitVec.ofNat 64 n ∧ t.halted = s.halted) :
      t.halted = false ∧ ∃ n : Nat, 2 ≤ n ∧ n ≤ 8 ∧ t.cycles = s.cycles + BitVec.ofNat 64 n :=
    ⟨h.2.trans hs, n, hge, hle, h.1⟩
  obtain ⟨hnmi, hirq, -, hnmi', hirq'⟩ := vector_not_in_ram
  rcases step_cases ht with ⟨hh, -⟩ | ⟨-, -, rfl⟩ | ⟨-, -, -, -, rfl⟩ | ⟨-, -, -, he⟩
  · exact absurd (hs.symm.trans hh) (by decide)
  · obtain ⟨-, hcycles, hhalted, -⟩ := interruptEntry_enters hnmi hnmi' { s with nmiPending := false }
    exact .inr (charged (n := 7) (by decide) (by decide) ⟨hcycles, hhalted⟩)
  · obtain ⟨-, hcycles, hhalted, -⟩ := interruptEntry_enters hirq hirq' s
    exact .inr (charged (n := 7) (by decide) (by decide) ⟨hcycles, hhalted⟩)
  · rcases fetched_cases he with rfl | ⟨n, hge, hle, hcycles, hhalted, -⟩
    · exact .inl ⟨rfl, rfl⟩
    · exact .inr (charged hge hle ⟨hcycles, hhalted⟩)

/-! ### Every step answers, and what it keeps -/

theorem exec_answers (i : Instr) (s : State) : ∃ t, exec i s = .next t := by
  rcases exec_cases i s with ⟨op, rfl⟩ | ⟨-, taken, d, h⟩ | ⟨t, ht, -⟩
  · exact ⟨_, rfl⟩
  · exact ⟨_, h.trans (branch_eq s taken d)⟩
  · exact ⟨t, ht⟩

/-- Settles O8: what comes before a fetch is a state, and every instruction answers one. -/
theorem everyStepAnswersNextState : Obligations.EveryStepAnswersNextState := by
  intro s
  unfold step
  cases s.beforeFetch with
  | some t => exact ⟨t, rfl⟩
  | none => exact exec_answers s.fetchInstr s

/-- The invariant holds across every elementary update: a write keeps the stores canonical, and P is written with bit 5
set or by a flag other than U. -/
theorem elementary_sound : Elementary fun s t => Sound s → Sound t where
  refl _ h := h
  trans _ _ _ hst htu h := htu (hst h)
  a _ _ h := h
  x _ _ h := h
  y _ _ h := h
  sp _ _ h := h
  pc _ _ h := h
  cycles _ _ h := h
  halt _ h := h
  nmi _ h := h
  flag s f b _ hu := fun ⟨hram, hcart, hp⟩ => ⟨hram, hcart, (s.setFlag_keeps_u f b hu).trans hp⟩
  pull s _ := fun ⟨hram, hcart, _⟩ => ⟨hram, hcart, s.setStatus_stores_u _⟩
  write s e v := fun ⟨hram, hcart, hp⟩ => by
    refine ⟨s.write_keeps_ram e v hram, ?_, by rw [State.write_p, hp]⟩
    rw [State.write_cart]
    split
    · exact hcart
    · exact Cartridge.wf_write hcart e v

/-- Settles O13: the invariant holds across every elementary update, so across the chain of them that a step is. -/
theorem stepKeepsSound : Obligations.StepKeepsSound := fun _ _ hs ht => elementary_sound.step ht hs

/-- The host's side is as before, and so is a cartridge that is NROM. -/
def KeepsHostSide (s t : State) : Prop :=
  SameHostSide s t ∧ ∀ image, s.cart = .nrom image → t.cart = .nrom image

theorem keepsHostSide_of_fields {s t : State} (hi : t.irq = s.irq) (hb : t.breakpoint = s.breakpoint)
    (hp : t.params = s.params) (hc : t.cart = s.cart) : KeepsHostSide s t :=
  ⟨⟨hi, hb, hp⟩, fun _ h => hc.trans h⟩

theorem elementary_hostSide : Elementary KeepsHostSide where
  refl _ := keepsHostSide_of_fields rfl rfl rfl rfl
  trans := by
    rintro s t u ⟨⟨hi, hb, hp⟩, hc⟩ ⟨⟨hi', hb', hp'⟩, hc'⟩
    exact ⟨⟨hi'.trans hi, hb'.trans hb, hp'.trans hp⟩, fun image h => hc' image (hc image h)⟩
  a _ _ := keepsHostSide_of_fields rfl rfl rfl rfl
  x _ _ := keepsHostSide_of_fields rfl rfl rfl rfl
  y _ _ := keepsHostSide_of_fields rfl rfl rfl rfl
  sp _ _ := keepsHostSide_of_fields rfl rfl rfl rfl
  pc _ _ := keepsHostSide_of_fields rfl rfl rfl rfl
  cycles _ _ := keepsHostSide_of_fields rfl rfl rfl rfl
  halt _ := keepsHostSide_of_fields rfl rfl rfl rfl
  nmi _ := keepsHostSide_of_fields rfl rfl rfl rfl
  flag _ _ _ _ _ := keepsHostSide_of_fields rfl rfl rfl rfl
  pull _ _ := keepsHostSide_of_fields rfl rfl rfl rfl
  write s e v := by
    refine ⟨⟨by simp, by simp, by simp⟩, fun image h => ?_⟩
    rw [State.write_cart, h, Cartridge.write_of_nrom rfl, ite_self]

/-- Settles O15: no elementary update touches the host's side, and a write to NROM is a no-op. -/
theorem stepKeepsHostSide : Obligations.StepKeepsHostSide := fun _ _ ht => elementary_hostSide.step ht

theorem elementary_breakBit : Elementary fun s t => t.flag .b = s.flag .b where
  refl _ := rfl
  trans _ _ _ hst htu := htu.trans hst
  a _ _ := rfl
  x _ _ := rfl
  y _ _ := rfl
  sp _ _ := rfl
  pc _ _ := rfl
  cycles _ _ := rfl
  halt _ := rfl
  nmi _ := rfl
  flag s f b hb _ := by simp [hb]
  pull s v := s.flag_pullStatus v .b
  write s e v := s.flag_write e v .b

/-- Settles O16: flag writes are of flags other than B, and a pulled P keeps the live B; U reads 1 in every state. -/
theorem stepKeepsBreakBit : Obligations.StepKeepsBreakBit :=
  fun _ t ht => ⟨elementary_breakBit.step ht, t.flag_u⟩

/-- Settles O14: both stores are empty, and P is 0x24. -/
theorem resetIsSound : Obligations.ResetIsSound := ⟨rfl, rfl, rfl⟩

end Sys2Proof.Proofs.StepInvariants
end

section
/-! PROOFS. The bus, the cartridge and the stack (spec/20_memory.md R41-R64) and the pointer modes
(30_encoding.md R92, R93): the windows and masks in arithmetic, an image read back, and bytes stored and read again. -/

namespace Sys2Proof.Proofs.BusCartridge

open Sys2Proof Sys2Proof.Machine Sys2Proof.Proofs.RamMirrors Sys2Proof.Proofs.AddressModes Sys2Proof.Proofs.ShiftIncDec
  Sys2Proof.Proofs.JumpCall

/-! ### The windows of the bus (R44, R45, R50, R51) -/

theorem read_stub (s : State) {addr : Word} (h : 0x2000 ≤ addr.toNat) (h' : addr.toNat < 0x4020) :
    s.read addr = 0xFF := by
  have hram : ¬ addr < 0x2000#16 := by bv_omega
  have hapu : addr < 0x4020#16 := by bv_omega
  unfold State.read ppuRead apuRead
  rw [if_neg hram, if_pos hapu, ite_self]
  rfl

theorem write_stub (s : State) {addr : Word} (v : Byte) (h : 0x2000 ≤ addr.toNat) (h' : addr.toNat < 0x4020) :
    s.write addr v = s := by
  have hram : ¬ addr < 0x2000#16 := by bv_omega
  have hapu : addr < 0x4020#16 := by bv_omega
  unfold State.write
  rw [if_neg hram, if_pos hapu]

theorem read_cart (s : State) {addr : Word} (h : 0x4020 ≤ addr.toNat) : s.read addr = s.cart.read addr := by
  have hram : ¬ addr < 0x2000#16 := by bv_omega
  have hppu : ¬ addr < 0x4000#16 := by bv_omega
  have hapu : ¬ addr < 0x4020#16 := by bv_omega
  unfold State.read
  rw [if_neg hram, if_neg hppu, if_neg hapu]

theorem write_cart (s : State) {addr : Word} (v : Byte) (h : 0x4020 ≤ addr.toNat) :
    s.write addr v = { s with cart := s.cart.write addr v } := by
  have hram : ¬ addr < 0x2000#16 := by bv_omega
  have hapu : ¬ addr < 0x4020#16 := by bv_omega
  unfold State.write
  rw [if_neg hram, if_neg hapu]

/-- Settles O24: both windows lie between RAM and the cartridge. -/
theorem stubWindowsReadAllOnes : Obligations.StubWindowsReadAllOnes :=
  fun s _ v h h' => ⟨read_stub s h h', write_stub s v h h'⟩

/-- A write reaches its RAM cell and, of a device, the addresses from 0x4020 on (R42, R50). -/
theorem writeReaches_device {s : State} {state : List Byte} (hc : s.cart = .device state) (e addr : Word) :
    s.writeReaches e addr = true ↔ sameCell e addr = true ∨ 0x4020 ≤ e.toNat ∧ 0x4020 ≤ addr.toNat := by
  simp [State.writeReaches, hc, Cartridge.isDevice, BitVec.le_def]

/-- Settles O26: from 0x4020 on the bus is the device's. -/
theorem cartridgeDeviceTakesItsWindow : Obligations.CartridgeDeviceTakesItsWindow := by
  intro s state hc
  refine ⟨fun addr v h => ⟨?_, ?_⟩, fun addr v h => ?_, writeReaches_device hc⟩
  · rw [read_cart s h, hc]
    rfl
  · rw [write_cart s v h, hc]
    rfl
  · rw [s.write_cart_below v (BitVec.lt_def.mpr h), hc]

/-- Settles O27: the low byte is the remainder by 256 and the high byte the quotient. -/
theorem wordAccessesAreTwoBytes : Obligations.WordAccessesAreTwoBytes := by
  refine ⟨fun s addr => toNat_word _ _, fun s addr w => ?_, fun s => toNat_word _ _⟩
  have hlo : lo w = BitVec.ofNat 8 w.toNat :=
    BitVec.eq_of_toNat_eq ((toNat_lo w).trans (BitVec.toNat_ofNat w.toNat 8).symm)
  have hhi : hi w = BitVec.ofNat 8 (w.toNat / 256) := by
    apply BitVec.eq_of_toNat_eq
    rw [toNat_hi, BitVec.toNat_ofNat]
    have := w.isLt
    omega
  rw [State.writeWord, hlo, hhi]

/-! ### NROM images (R51, R52) -/

/-- The mask of R51 is a remainder by the size of the PRG buffer. -/
theorem and_prgMask_toNat (b : PrgBanks) (w : Word) : (w &&& b.prgMask).toNat = w.toNat % b.size := by
  rw [BitVec.toNat_and]
  cases b
  · exact Nat.and_two_pow_sub_one_eq_mod w.toNat 14
  · exact Nat.and_two_pow_sub_one_eq_mod w.toNat 15

/-- The image's byte that an address from 0x8000 on selects. -/
theorem prgIndex_eq (c : Nrom) {addr : Word} (h : 0x8000 ≤ addr.toNat) :
    c.prgIndex addr = (addr.toNat - 0x8000) % c.banks.size := by
  have hsub : (addr - 0x8000#16).toNat = addr.toNat - 0x8000 := by bv_omega
  rw [Nrom.prgIndex, and_prgMask_toNat, hsub]

theorem nrom_read_rom (c : Nrom) {addr : Word} (h : 0x8000 ≤ addr.toNat) :
    c.read addr = Memory.get c.prg ((addr.toNat - 0x8000) % c.banks.size) := by
  have hrom : ¬ addr < 0x8000#16 := by bv_omega
  rw [Nrom.read, if_neg hrom, prgIndex_eq c h]

/-- A sum that does not wrap. -/
theorem toNat_add_ofNat (w : Word) {k : Nat} (h : w.toNat + k < 65536) :
    (w + BitVec.ofNat 16 k).toNat = w.toNat + k := by
  rw [BitVec.toNat_add, BitVec.toNat_ofNat]
  omega

/-- Settles O25: 0x8000 + k and 0xC000 + k select the same byte of 16 KiB, and a write to NROM is a no-op. -/
theorem smallImageIsMirrored : Obligations.SmallImageIsMirrored := by
  intro s image hc
  refine ⟨fun hb k hk => ?_, fun addr v h => ?_⟩
  · have hlow : (0x8000 + BitVec.ofNat 16 k : Word).toNat = 0x8000 + k := toNat_add_ofNat _ (by simpa using by omega)
    have hhigh : (0xC000 + BitVec.ofNat 16 k : Word).toNat = 0xC000 + k := toNat_add_ofNat _ (by simpa using by omega)
    have hmod : (0x8000 + k - 0x8000) % PrgBanks.one.size = (0xC000 + k - 0x8000) % PrgBanks.one.size := by
      rw [PrgBanks.size]
      omega
    rw [read_cart s (by omega), read_cart s (by omega), hc, Cartridge.read, Cartridge.read,
      nrom_read_rom image (by omega), nrom_read_rom image (by omega), hlow, hhigh, hb, hmod]
  · rw [write_cart s v h, hc, Cartridge.write_of_nrom rfl, ← hc]

theorem get_ofBytes (bytes : List Byte) (k j : Nat) (h : j < bytes.length) :
    Memory.get (Memory.ofBytes k bytes) (k + j) = bytes[j] := by
  induction bytes generalizing k j with
  | nil => simp at h
  | cons v bytes ih =>
    have hwf : Memory.wfFrom (k + 1) (k + 1 + bytes.length) (Memory.ofBytes (k + 1) bytes) = true :=
      Memory.wfFrom_ofBytes bytes (k + 1) _ le_rfl
    rw [Memory.ofBytes, Memory.get_cons]
    · cases j with
      | zero => simp
      | succ j =>
        rw [if_neg (by omega), ← Nat.add_assoc, Nat.add_right_comm]
        simpa using ih (k + 1) j (by simpa using h)
    · intro hk hv
      rw [hv, Memory.get_below hwf (by omega)]

/-- An NROM cartridge of an image that fills its banks is sound and reads the image from 0x8000 on. -/
theorem nrom_reads_image {b : PrgBanks} {prg : List Byte} (hlen : prg.length = b.size) :
    (Cartridge.nrom ⟨b, Memory.ofBytes 0 (prg.take b.size)⟩).wf = true ∧
    ∀ k (h : k < prg.length),
      (Cartridge.nrom ⟨b, Memory.ofBytes 0 (prg.take b.size)⟩).read (0x8000 + BitVec.ofNat 16 k) = prg[k] := by
  rw [List.take_of_length_le (le_of_eq hlen)]
  refine ⟨Memory.wfFrom_ofBytes prg 0 b.size (by omega), fun k h => ?_⟩
  have hsize : b.size ≤ 0x8000 := by cases b <;> decide
  have haddr : (0x8000 + BitVec.ofNat 16 k : Word).toNat = 0x8000 + k := toNat_add_ofNat _ (by simpa using by omega)
  have hget := get_ofBytes prg 0 k h
  rw [Nat.zero_add] at hget
  rw [Cartridge.read, nrom_read_rom _ (by omega), haddr, Nat.add_sub_cancel_left,
    Nat.mod_eq_of_lt (hlen ▸ h), hget]

/-- Settles O28: the image fills its banks. -/
theorem builtCartridgeReadsItsImage : Obligations.BuiltCartridgeReadsItsImage := by
  intro banks prg
  refine ⟨?_, fun h1 h2 => ?_⟩
  · rintro (rfl | rfl) hlen
    · exact ⟨_, rfl, nrom_reads_image (b := .one) hlen⟩
    · exact ⟨_, rfl, nrom_reads_image (b := .two) hlen⟩
  · rw [Cartridge.ofBanks, if_neg h1, if_neg h2]

/-- Settles O29: the nibbles do not overlap. -/
theorem mapperIdJoinsNibbles : Obligations.MapperIdJoinsNibbles := by
  refine ⟨fun h => ?_, fun id banks prg hid => if_neg hid⟩
  have hhigh : ∀ b : Byte, (b &&& 0xF0#8).toNat = b.toNat / 16 * 16 := by decide
  have hlow : ∀ b : Byte, (b >>> 4).toNat = b.toNat / 16 := by decide
  have hid : h.mapperId = (h.flags7 &&& 0xF0#8) ||| (h.flags6 >>> 4) := rfl
  rw [hid, BitVec.toNat_or, hhigh, hlow, Nat.mul_comm, ← Nat.two_pow_add_eq_or_of_lt (i := 4)]
  have := h.flags6.isLt
  omega

/-! ### Bytes stored and read again (R58, R64) -/

/-- Settles O30: the pops read the two cells the push wrote. -/
theorem poppedWordIsPushedWord : Obligations.PoppedWordIsPushedWord := by
  rintro s w ⟨hram, -, -⟩
  refine ⟨topWord_pushWord s w hram, ?_⟩
  rw [State.popWord, State.popped_sp, State.pushWord_sp]
  exact BitVec.sub_add_cancel s.sp 2

theorem sameCell_self {e : Word} (h : e < 0x2000#16) : sameCell e e = true := by simp [sameCell, h]

/-- Addresses less than the size of RAM apart lie in different cells. -/
theorem sameCell_false_of_lt {e addr : Word} (h : addr.toNat < e.toNat) (h' : e.toNat < addr.toNat + 0x800) :
    sameCell e addr = false := by
  rw [← Bool.not_eq_true, sameCell_iff]
  omega

theorem read_write_same (s : State) {e : Word} (v : Byte) (he : e < 0x2000#16) (hram : Memory.wf 0x800 s.ram = true) :
    (s.write e v).read e = v := by
  rw [s.read_write e e v he hram, if_pos (sameCell_self he)]

/-- Settles O31: the three bytes are in three cells, so the later writes leave the earlier bytes. -/
theorem storedBytesAreFetched : Obligations.StoredBytesAreFetched := by
  rintro s b0 b1 b2 ⟨hram, -, -⟩ hpc
  have h1 : (s.pc + 1).toNat = s.pc.toNat + 1 := by bv_omega
  have h2 : (s.pc + 2).toNat = s.pc.toNat + 2 := by bv_omega
  have hr0 : s.pc < 0x2000#16 := by bv_omega
  have hr1 : s.pc + 1 < 0x2000#16 := by bv_omega
  have hr2 : s.pc + 2 < 0x2000#16 := by bv_omega
  have hram1 := s.write_keeps_ram s.pc b0 hram
  have hram2 := (s.write s.pc b0).write_keeps_ram (s.pc + 1) b1 hram1
  unfold State.fetchInstr
  simp only [State.write_pc, State.write_params]
  rw [read_write_same _ b2 hr2 hram2,
    State.read_write_ram_other _ _ _ b2 hr2 (sameCell_false_of_lt (addr := s.pc) (by omega) (by omega)),
    State.read_write_ram_other _ _ _ b2 hr2 (sameCell_false_of_lt (addr := s.pc + 1) (by omega) (by omega)),
    read_write_same _ b1 hr1 hram1,
    State.read_write_ram_other _ _ _ b1 hr1 (sameCell_false_of_lt (addr := s.pc) (by omega) (by omega)),
    read_write_same _ b0 hr0 hram]

/-! ### The pointer modes (R92, R93) -/

theorem zext_eq_ofNat (b : Byte) : zext b = BitVec.ofNat 16 b.toNat := by
  apply BitVec.eq_of_toNat_eq
  rw [toNat_zext, BitVec.toNat_ofNat, Nat.mod_eq_of_lt (by omega)]

/-- The pointer at `z` is read low byte first, its high byte at the next place modulo 256 (R92, R93). -/
theorem toNat_readPointer (s : State) (z : Byte) : (s.readPointer z).toNat =
    (s.read (BitVec.ofNat 16 ((z.toNat + 1) % 256))).toNat * 256 + (s.read (BitVec.ofNat 16 z.toNat)).toNat := by
  rw [State.readPointer, toNat_word, zext_eq_ofNat, zext_eq_ofNat, toNat_add_one]

/-- Settles O34: both modes read the pointer of `toNat_readPointer`, and the second indexes the Word it holds. -/
theorem pointerModesReadPageZero : Obligations.PointerModesReadPageZero := by
  intro b s z base
  have hbase : (s.readPointer b).toNat = base := toNat_readPointer s b
  refine ⟨?_, rfl, ?_, ?_⟩
  · have h := toNat_readPointer s (b + s.x)
    rwa [BitVec.toNat_add] at h
  · rw [← hbase]
    exact toNat_add_zext _ s.y
  · rw [← hbase]
    exact crosses_add_zext_iff _ s.y

end Sys2Proof.Proofs.BusCartridge
end

section
/-! PROOFS. SBC, the bitwise operations and BIT (spec/42_alu.md R133-R136, R140). -/

namespace Sys2Proof.Proofs.SubtractLogic

open Sys2Proof Sys2Proof.Machine Sys2Proof.Proofs.DecimalFlag Sys2Proof.Proofs.LoadStore Sys2Proof.Proofs.AddCompare

/-! ### Subtraction as the sum with the complement (R133) -/

/-- C is set where there is no borrow. -/
theorem addBytes_not_carry_iff (a m : Byte) (c : Bool) :
    (addBytes a (~~~m) c).carry = true ↔ m.toNat + (1 - c.toNat) ≤ a.toNat := by
  rw [addBytes_carry_iff, BitVec.toNat_not]
  have hm := m.isLt
  have hc := c.toNat_le
  omega

/-- V is set where the signed difference is no signed Byte. -/
theorem addBytes_not_overflow_iff (a m : Byte) (c : Bool) :
    (addBytes a (~~~m) c).overflow = true ↔
      a.toInt - m.toInt - ((1 - c.toNat : Nat) : Int) < -128 ∨
      127 < a.toInt - m.toInt - ((1 - c.toNat : Nat) : Int) := by
  have hnot : ∀ v : Byte, (~~~v).toInt = -v.toInt - 1 := by decide
  have hc := c.toNat_le
  rw [addBytes_overflow_iff, hnot]
  omega

/-- Settles O38: both retire with `AddWithCarry` of the complement, in arithmetic. -/
theorem sbcSubtractsWithBorrow : Obligations.SbcSubtractsWithBorrow := by
  intro o s i hi
  have hexec : exec i s = retire o.mode (srcCost o s) (State.addWithCarry (~~~srcValue o s)) s ∧ i.mode = o.mode := by
    rcases hi with rfl | ⟨b, rfl, rfl⟩ <;> exact ⟨rfl, rfl⟩
  obtain ⟨t, ht, ha, hc, hv, hframe⟩ := retire_addWithCarry o.mode (srcCost o s) (~~~srcValue o s) s
  rw [hexec.1, Instr.length, hexec.2]
  refine ⟨t, ht, ?_, ?_, ?_, hframe⟩
  · rw [ha, addBytes_not_toNat]
  · rw [hc, addBytes_not_carry_iff]
  · rw [hv, addBytes_not_overflow_iff]

/-! ### Bitwise operations (R134-R136) -/

/-- An instruction that loads a with `v` writes a, N and Z, and of the rest only pc and the counter. -/
theorem retire_loadA (mode : Mode) (cost : Nat) (v : Byte) (s : State) :
    ∃ t, retire mode cost (State.loadA v) s = .next t ∧ t.a = v ∧ NZ t.a t ∧ t.x = s.x ∧ t.y = s.y ∧ t.sp = s.sp ∧
      SameFlags [.n, .z] s t ∧ SameBytes s t ∧ Retires (1 + mode.operandBytes) cost s t := by
  obtain ⟨hnz, hframe⟩ := setNZ_frame s (1 + mode.operandBytes) cost v s.x s.y v
  exact ⟨_, rfl, rfl, hnz, rfl, rfl, rfl, hframe⟩

/-- Settles O39: each loads a with an operation that is bitwise by its own lemma. -/
theorem logicCombinesBitwise : Obligations.LogicCombinesBitwise := by
  intro o s i f hi
  obtain ⟨v, hexec, hlen, hbits⟩ : ∃ v, exec i s = retire o.mode (srcCost o s) (State.loadA v) s ∧
      i.length = 1 + o.mode.operandBytes ∧
      ∀ k, v.getLsbD k = f (s.a.getLsbD k) ((srcValue o s).getLsbD k) := by
    obtain ⟨rfl, rfl⟩ | ⟨rfl, rfl⟩ | ⟨rfl, rfl⟩ := hi
    · exact ⟨s.a &&& srcValue o s, rfl, rfl, fun _ => BitVec.getLsbD_and⟩
    · exact ⟨s.a ||| srcValue o s, rfl, rfl, fun _ => BitVec.getLsbD_or⟩
    · exact ⟨s.a ^^^ srcValue o s, rfl, rfl, fun _ => BitVec.getLsbD_xor⟩
  obtain ⟨t, ht, ha, hframe⟩ := retire_loadA o.mode (srcCost o s) v s
  rw [hexec, hlen]
  exact ⟨t, ht, fun k _ => ha ▸ hbits k, hframe⟩

/-- An instruction whose effect is `testBits` writes three flags, and of the rest only pc and the counter (R140). -/
theorem retire_testBits (mode : Mode) (cost : Nat) (m : Byte) (s : State) :
    ∃ t, retire mode cost (State.testBits m) s = .next t ∧ (t.flag .z = true ↔ s.a &&& m = 0) ∧
      t.flag .n = m.getLsbD 7 ∧ t.flag .v = m.getLsbD 6 ∧ t.a = s.a ∧ t.x = s.x ∧ t.y = s.y ∧ t.sp = s.sp ∧
      SameFlags [.n, .v, .z] s t ∧ SameBytes s t ∧ Retires (1 + mode.operandBytes) cost s t := by
  refine ⟨_, retire_eq s mode cost _, by simp, by simp, by simp, by simp, by simp, by simp, by simp, fun g hg => ?_,
    sameBytes_of_stores (by simp) (by simp), retires_of_fields (by simp) (by simp) (by simp)⟩
  simp only [List.mem_cons, List.not_mem_nil, or_false, not_or] at hg
  simp [hg]

/-- Settles O41: BIT retires with `testBits` of its operand. -/
theorem bitTestsMemory : Obligations.BitTestsMemory :=
  fun m s => retire_testBits m.mode (readCost m s) (memValue m s) s

end Sys2Proof.Proofs.SubtractLogic
end

section
/-! PROOFS. The branches (spec/44_branch_jump.md R170-R178), BRK and RTI (R182, R183), the pulls, the flag instructions
and NOP (45_stack_flag_transfer.md R192-R200, R207). -/

namespace Sys2Proof.Proofs.BranchTrapFlag

open Sys2Proof Sys2Proof.Machine Sys2Proof.Proofs.AddressModes Sys2Proof.Proofs.ShiftIncDec
  Sys2Proof.Proofs.StackTransfer Sys2Proof.Proofs.StepKinds

/-! ### Branches -/

/-- The target is the signed displacement added to the next instruction's address modulo 65536 (R90). -/
theorem branchTarget_eq (next : Word) (d : Byte) :
    branchTarget next d = BitVec.ofInt 16 (next.toInt + d.toInt) := by
  rw [branchTarget, sext, BitVec.signExtend, BitVec.ofInt_add, BitVec.ofInt_toInt]

/-- A branch taken exactly where `p` holds goes to its target there, and its cost is as R170 says. -/
theorem branch_of_iff {taken : Bool} {p : Prop} [Decidable p] (hp : taken = true ↔ p) (d : Byte) (s : State) :
    let next := s.pc + 2
    let target := BitVec.ofInt 16 (next.toInt + d.toInt)
    branch taken d s = .next { s with
      pc := if p then target else next
      cycles := s.cycles + if p then (if target.toNat / 256 = next.toNat / 256 then 3 else 4) else 2 } := by
  intro next target
  rw [branch_eq, branchTarget_eq]
  cases taken with
  | false =>
    have hn : ¬ p := fun h => Bool.false_ne_true (hp.mpr h)
    simp only [if_neg hn]
    rfl
  | true =>
    simp only [if_pos (hp.mp rfl)]
    by_cases hpage : target.toNat / 256 = next.toNat / 256
    · have hc : crosses target next = false := by
        rw [← Bool.not_eq_true, crosses_iff]
        exact not_not_intro hpage
      rw [if_pos hpage, hc]
      rfl
    · rw [if_neg hpage, (crosses_iff target next).mpr hpage]
      rfl

/-- Settles O45: each branch is `branch_of_iff` on its flag. -/
theorem branchesFollowTheirFlag : Obligations.BranchesFollowTheirFlag := by
  intro d s i f value h
  simp only [List.mem_cons, List.not_mem_nil, or_false, Prod.mk.injEq] at h
  obtain ⟨rfl, rfl, rfl⟩ | ⟨rfl, rfl, rfl⟩ | ⟨rfl, rfl, rfl⟩ | ⟨rfl, rfl, rfl⟩ | ⟨rfl, rfl, rfl⟩ | ⟨rfl, rfl, rfl⟩ |
    ⟨rfl, rfl, rfl⟩ | ⟨rfl, rfl, rfl⟩ := h
  · exact branch_of_iff (iff_of_eq (Bool.not_eq_true' _)) d s
  · exact branch_of_iff Iff.rfl d s
  · exact branch_of_iff Iff.rfl d s
  · exact branch_of_iff (iff_of_eq (Bool.not_eq_true' _)) d s
  · exact branch_of_iff Iff.rfl d s
  · exact branch_of_iff (iff_of_eq (Bool.not_eq_true' _)) d s
  · exact branch_of_iff (iff_of_eq (Bool.not_eq_true' _)) d s
  · exact branch_of_iff Iff.rfl d s

/-! ### P pulled -/

/-- P as it reads after it was pulled from the Byte `v` (R193). -/
theorem status_pullStatus (v : Byte) (s : State) :
    (s.pullStatus v).status = (v &&& 0xCF) ||| (s.status &&& 0x10) ||| 0x20 := by
  rw [State.status, State.pullStatus_p, BitVec.or_assoc, BitVec.or_assoc, BitVec.or_self, BitVec.or_self]
  rfl

/-- P pushed with bits 4 and 5 set and pulled where B is as it was is P again (R191, R193). -/
theorem pull_pushed_status {s t : State} (hb : t.flag .b = s.flag .b) :
    ((s.status ||| 0x30) &&& 0xCF) ||| (t.status &&& 0x10) ||| 0x20 = s.status := by
  have hbit : ∀ v : Byte, v &&& 0x10 = if v.getLsbD 4 = true then 0x10 else 0 := by decide
  have hpull : ∀ v : Byte, v.getLsbD 5 = true → ((v ||| 0x30) &&& 0xCF) ||| (v &&& 0x10) ||| 0x20 = v := by decide
  have hlive : t.status &&& 0x10 = s.status &&& 0x10 := by
    have hb' : t.status.getLsbD 4 = s.status.getLsbD 4 := hb
    rw [hbit, hbit, hb']
  rw [hlive]
  exact hpull s.status s.flag_u

/-! ### RTI and BRK -/

theorem listed_rti : Listed Line.rti .rti := listed_of_implied rfl (fun _ => rfl) rfl fun _ => ⟨_, rfl, rfl⟩

/-- RTI pulls P and then pops pc (R182). -/
theorem exec_rti (s : State) :
    exec .rti s = .next { s.pullStatus (s.top 1) with
      pc := s.topWord 2, sp := s.sp + 3, cycles := s.cycles + 6 } := rfl

/-- Settles O49: the pulled P reads as `status_pullStatus` says, and a held IRQ comes first in the state RTI leaves as
in any other. -/
theorem rtiRestoresStatusAndPc : Obligations.RtiRestoresStatusAndPc := by
  intro s
  exact ⟨listed_rti, _, exec_rti s, status_pullStatus _ s, rfl, rfl, rfl, rfl, rfl, sameBytes_of_stores rfl rfl,
    ⟨rfl, rfl, rfl, rfl, rfl, rfl⟩, takesHeldIrq _⟩

/-- BRK enters through the IRQ vector from two past its address (R183). -/
theorem exec_brk (s : State) :
    exec .brk s = .next (((s.advance 1).enterVector (s.pc + 2) s.statusPushed Config.irqVector).charge 7) := by
  have hret : (s.advance 1).pc + 1 = s.pc + 2 := by
    rw [State.advance_pc]
    bv_omega
  rw [← hret]
  rfl

/-- Settles O50: the shared entry, from the state past the opcode, which holds every Byte the entry reads or writes. -/
theorem brkEntersThroughTheIrqVector : Obligations.BrkEntersThroughTheIrqVector := by
  intro s
  obtain ⟨-, hv, -, -, hv'⟩ := vector_not_in_ram
  obtain ⟨-, -, -, -, hcycles, hhalted, hnmi, hirq, hbreak, -, hparams, -⟩ :=
    (s.advance 1).enterVector_spec (s.pc + 2) s.statusPushed Config.irqVector
  exact ⟨_, exec_brk s, enterVector_enters (s.pc + 2) s.statusPushed Config.irqVector (s.advance 1) hv hv',
    congrArg (· + 7#64) hcycles, hhalted, hnmi, hirq, hbreak, hparams⟩

/-- Settles O51: RTI pops the three Bytes BRK pushed, from the three cells of `Enters`. -/
theorem brkThenRtiComesBack : Obligations.BrkThenRtiComesBack := by
  intro s hs
  obtain ⟨t, ht, ⟨-, hsp, -, -, -, -, -, hflags, -, hstack⟩, -⟩ := brkEntersThroughTheIrqVector s
  obtain ⟨hhi, hlo, hpushed⟩ := hstack hs
  obtain ⟨-, u, hu, hstatus, hpc, husp, -⟩ := rtiRestoresStatusAndPc t
  have h1 : t.sp + 1 = s.sp - 2 := by rw [hsp]; bv_omega
  have h2 : t.sp + 2 = s.sp - 1 := by rw [hsp]; bv_omega
  have h3 : t.sp + 3 = s.sp := by rw [hsp]; bv_omega
  rw [h1, hpushed, pull_pushed_status (hflags .b (by decide))] at hstatus
  rw [h2, h3, hlo, hhi, word_lo_hi] at hpc
  exact ⟨t, u, ht, hu, hpc, husp.trans h3, hstatus⟩

/-! ### The pulls -/

theorem listed_pla : Listed Line.pla .pla := listed_of_implied rfl (fun _ => rfl) rfl fun _ => ⟨_, rfl, rfl⟩
theorem listed_plp : Listed Line.plp .plp := listed_of_implied rfl (fun _ => rfl) rfl fun _ => ⟨_, rfl, rfl⟩

/-- PLA loads a from the Byte above the stack pointer (R192). -/
theorem exec_pla_spec (s : State) :
    ∃ t, exec .pla s = .next t ∧ t.a = s.read (stackAddr (s.sp + 1)) ∧ NZ (s.read (stackAddr (s.sp + 1))) t ∧
      SameFlags [.n, .z] s t ∧ t.sp = s.sp + 1 ∧ t.x = s.x ∧ t.y = s.y ∧ SameBytes s t ∧ Retires 1 4 s t := by
  have hflag (g : Flag) := ((s.advance 1).popped 1).flag_loadA (s.read (stackAddr (s.sp + 1))) g
  refine ⟨_, rfl, rfl, nz_of_flags (hflag .z) (hflag .n), fun g hg => ?_, rfl, rfl, rfl, sameBytes_of_stores rfl rfl,
    retires_of_fields rfl rfl ⟨rfl, rfl, rfl, rfl, rfl⟩⟩
  simp only [List.mem_cons, List.not_mem_nil, or_false, not_or] at hg
  exact (hflag g).trans (by rw [if_neg hg.2, if_neg hg.1]; rfl)

/-- PLP pulls P from the Byte above the stack pointer (R193). -/
theorem exec_plp_spec (s : State) :
    ∃ t, exec .plp s = .next t ∧
      t.status = (s.read (stackAddr (s.sp + 1)) &&& 0xCF) ||| (s.status &&& 0x10) ||| 0x20 ∧ t.sp = s.sp + 1 ∧
      t.a = s.a ∧ t.x = s.x ∧ t.y = s.y ∧ SameBytes s t ∧ Retires 1 4 s t ∧ TakesHeldIrq t :=
  ⟨_, rfl, status_pullStatus _ ((s.advance 1).popped 1), rfl, rfl, rfl, rfl, sameBytes_of_stores rfl rfl,
    retires_of_fields rfl rfl ⟨rfl, rfl, rfl, rfl, rfl⟩, takesHeldIrq _⟩

/-- A PLP right after a PHP undoes it (R193). -/
theorem exec_plp_after_php (s : State) (hs : Sound s) :
    ∃ t u, exec .php s = .next t ∧ exec .plp t = .next u ∧ u.status = s.status ∧ u.sp = s.sp := by
  obtain ⟨t, ht, ⟨-, -, hread⟩, hsp, -, -, -, hflags, -⟩ := retire_push s.statusPushed s
  obtain ⟨u, hu, hstatus, husp, -⟩ := exec_plp_spec t
  have h1 : t.sp + 1 = s.sp := by rw [hsp]; bv_omega
  have hpulled : t.read (stackAddr s.sp) = s.status ||| 0x30 :=
    hread hs (stackAddr s.sp) (by rw [sameCell_stackAddr, beq_self_eq_true])
  rw [h1, hpulled, pull_pushed_status (hflags .b (by decide))] at hstatus
  exact ⟨t, u, ht, hu, hstatus, husp.trans h1⟩

/-- Settles O53: the two pulls and the round trip. -/
theorem pullsIncrementThenRead : Obligations.PullsIncrementThenRead :=
  fun s => ⟨listed_pla, listed_plp, exec_pla_spec s, exec_plp_spec s, exec_plp_after_php s⟩

/-! ### The flag instructions and NOP -/

/-- An instruction whose effect is one flag write changes that flag, pc and the counter (R194-R200). -/
theorem retire_setFlag {f : Flag} (hf : f ≠ .u) (b : Bool) (s : State) :
    ∃ t, retire .implied 2 (State.setFlag f b) s = .next t ∧ t.flag f = b ∧ SameFlags [f] s t ∧ t.a = s.a ∧ t.x = s.x ∧
      t.y = s.y ∧ t.sp = s.sp ∧ SameBytes s t ∧ Retires 1 2 s t := by
  refine ⟨_, retire_eq s .implied 2 _, by simp [hf], fun g hg => ?_, rfl, rfl, rfl, rfl, sameBytes_of_stores rfl rfl,
    retires_of_fields rfl rfl ⟨rfl, rfl, rfl, rfl, rfl⟩⟩
  rw [List.mem_singleton] at hg
  by_cases hu : g = .u
  · simp [hu]
  · simp [hu, Ne.symm hg]

/-- Settles O54: each of the seven is one flag write. -/
theorem flagInstructionsWriteOneFlag : Obligations.FlagInstructionsWriteOneFlag := by
  intro s i f value h
  simp only [List.mem_cons, List.not_mem_nil, or_false, Prod.mk.injEq] at h
  obtain ⟨rfl, rfl, rfl⟩ | ⟨rfl, rfl, rfl⟩ | ⟨rfl, rfl, rfl⟩ | ⟨rfl, rfl, rfl⟩ | ⟨rfl, rfl, rfl⟩ | ⟨rfl, rfl, rfl⟩ |
    ⟨rfl, rfl, rfl⟩ := h <;> exact retire_setFlag (by decide) _ s

/-- Settles O56: both retire with no effect of their own. -/
theorem nopsChangeOnlyPcAndCycles : Obligations.NopsChangeOnlyPcAndCycles := fun _ _ _ => ⟨rfl, rfl⟩

end Sys2Proof.Proofs.BranchTrapFlag
end

section
/-! PROOFS. The unofficial instructions with an operand in memory (spec/46_unofficial.md R212-R220): each is a load, a
store, or one bus write and then an operation on a and P. -/

namespace Sys2Proof.Proofs.UnofficialMemory

open Sys2Proof Sys2Proof.Machine Sys2Proof.Proofs.DecimalFlag Sys2Proof.Proofs.LoadStore Sys2Proof.Proofs.AddCompare
  Sys2Proof.Proofs.ShiftIncDec Sys2Proof.Proofs.SubtractLogic

/-- Settles O57: *LAX is a register load of two registers, *SAX the one bus write of `retire_write`. -/
theorem laxLoadsAndSaxStores : Obligations.LaxLoadsAndSaxStores := by
  intro m s
  obtain ⟨hnz, hframe⟩ := setNZ_frame s (Instr.laxU m).length (readCost m s) (memValue m s) (memValue m s) s.y
    (memValue m s)
  exact ⟨⟨_, rfl, rfl, rfl, hnz, rfl, rfl, hframe⟩, retire_write m.mode (storeBase m) _ _ s⟩

/-! ### One bus write and an operation on a and P -/

/-- `f` writes no part of the state but a and P. -/
def WritesAP (f : State → State) : Prop := ∀ u : State, f u = { u with a := (f u).a, p := (f u).p }

theorem writesAP_loadA (v : Byte) : WritesAP (State.loadA v) := fun _ => rfl
theorem writesAP_compare (r m : Byte) : WritesAP (State.compare r m) := fun _ => rfl
theorem writesAP_addWithCarry (m : Byte) : WritesAP (State.addWithCarry m) := fun _ => rfl

/-- The state that an instruction with one bus write retires from: past its bytes, with P perhaps written, and the Byte
`v` written at `e`. -/
def storing (length : Nat) (p : Byte) (e : Word) (v : Byte) (s : State) : State :=
  { s.advance length with p := p }.write e v

/-- Such an instruction stores its Byte, and of the rest writes a, P, pc and the counter (R150). -/
theorem storing_frame {f : State → State} (hf : WritesAP f) (length cost : Nat) (p : Byte) (e : Word) (v : Byte)
    (s : State) :
    let t := (f (storing length p e v s)).charge cost
    Stores e v s t ∧ t.x = s.x ∧ t.y = s.y ∧ t.sp = s.sp ∧ Retires length cost s t := by
  intro t
  have ht : t = State.charge cost { storing length p e v s with
      a := (f (storing length p e v s)).a, p := (f (storing length p e v s)).p } :=
    congrArg (State.charge cost) (hf _)
  rw [ht]
  refine ⟨stores_of_write ?_ ?_, ?_, ?_, ?_, retires_of_fields ?_ ?_ ⟨?_, ?_, ?_, ?_, ?_⟩⟩ <;>
    simp [storing, State.write_ram, State.write_cart]

/-- A read-modify-write of memory followed by an operation on a and P (R215, R216). -/
theorem modifyMem_frame {after : Byte → State → State} (ha : ∀ r, WritesAP (after r)) (m : Addr) (f : Byte → Byte)
    (s : State) {r : Byte} (hr : f (memValue m s) = r) :
    ∃ u, u.a = s.a ∧ (∀ g, u.flag g = s.flag g) ∧
      modifyMem m f after s = .next ((after r u).charge (modifyBase m)) ∧
      let t := (after r u).charge (modifyBase m)
      Stores (effectiveAddress m s) r s t ∧ t.x = s.x ∧ t.y = s.y ∧ t.sp = s.sp ∧
        Retires (1 + m.mode.operandBytes) (modifyBase m) s t := by
  subst hr
  refine ⟨storing (1 + m.mode.operandBytes) s.p (effectiveAddress m s) (f (memValue m s)) s, ?_, fun g => ?_, rfl,
    storing_frame (ha _) _ _ _ _ _ s⟩
  · simp [storing]
  · exact State.flag_congr (by simp [storing]) g

/-- A shift of memory followed by an operation on a and P, which sees the bit shifted out in C (R217-R220). -/
theorem shiftMem_frame {after : Byte → State → State} (ha : ∀ r, WritesAP (after r)) (m : Addr) (f : Byte → Shift)
    (s : State) {r : Byte} {carry : Bool} (hr : (f (memValue m s)).result = r) (hc : (f (memValue m s)).carry = carry) :
    ∃ u, u.a = s.a ∧ u.flag .c = carry ∧ (∀ g, g ≠ .c → u.flag g = s.flag g) ∧
      shiftMem m f after s = .next ((after r u).charge (modifyBase m)) ∧
      let t := (after r u).charge (modifyBase m)
      Stores (effectiveAddress m s) r s t ∧ t.x = s.x ∧ t.y = s.y ∧ t.sp = s.sp ∧
        Retires (1 + m.mode.operandBytes) (modifyBase m) s t := by
  subst hr hc
  have hflag (g : Flag) : (storing (1 + m.mode.operandBytes) (putFlag s.p .c (f (memValue m s)).carry)
      (effectiveAddress m s) (f (memValue m s)).result s).flag g = (s.setFlag .c (f (memValue m s)).carry).flag g :=
    State.flag_congr (by simp [storing]) g
  refine ⟨storing (1 + m.mode.operandBytes) (putFlag s.p .c (f (memValue m s)).carry) (effectiveAddress m s)
    (f (memValue m s)).result s, by simp [storing], ?_, fun g hg => ?_, rfl, storing_frame (ha _) _ _ _ _ _ s⟩
  · rw [hflag]
    simp
  · rw [hflag, State.flag_setFlag, if_neg hg.symm]
    cases g <;> simp

/-! ### The obligations -/

/-- `AddWithCarry` from a state that holds `a` and `c` (R130). -/
theorem addWithCarry_sets {u : State} {a : Byte} {c : Bool} (m : Byte) (cost : Nat) (ha : u.a = a)
    (hc : u.flag .c = c) :
    let t := (u.addWithCarry m).charge cost
    t.a = (addBytes a m c).result ∧ t.flag .c = (addBytes a m c).carry ∧ t.flag .v = (addBytes a m c).overflow ∧
      NZ t.a t ∧ ∀ g, g ∉ [Flag.n, .z, .c, .v] → t.flag g = u.flag g := by
  subst ha hc
  refine ⟨rfl, by simp, by simp, nz_of_flags (by simp) (by simp), fun g hg => ?_⟩
  simp only [List.mem_cons, List.not_mem_nil, or_false, not_or] at hg
  simp [hg]

/-- `Compare` sets three flags and keeps a (R131). -/
theorem compare_sets (u : State) (r m : Byte) (cost : Nat) :
    let t := (u.compare r m).charge cost
    (t.flag .c = true ↔ m.toNat ≤ r.toNat) ∧ (t.flag .z = true ↔ r = m) ∧
      (t.flag .n = true ↔ 128 ≤ (r.toNat + 256 - m.toNat) % 256) ∧ t.a = u.a ∧
      ∀ g, g ∉ [Flag.n, .z, .c] → t.flag g = u.flag g := by
  refine ⟨by simp, by simp, ?_, by simp, fun g hg => ?_⟩
  · rw [← getLsbD_seven_sub]
    simp
  · simp only [List.mem_cons, List.not_mem_nil, or_false, not_or] at hg
    simp [hg]

/-- Settles O58: the Byte one down or one up is stored and then compared with a, or subtracted from it. -/
theorem dcpComparesAndIsbSubtracts : Obligations.DcpComparesAndIsbSubtracts := by
  intro m s
  constructor
  · intro r
    have hr : memValue m s - 1 = r :=
      BitVec.eq_of_toNat_eq ((toNat_sub_one _).trans (BitVec.toNat_ofNat _ 8).symm)
    obtain ⟨u, ha, hflag, hexec, hstores, hx, hy, hsp, hret⟩ :=
      modifyMem_frame (fun r => writesAP_compare s.a r) m (· - 1) s hr
    obtain ⟨htc, htz, htn, hta, hkeeps⟩ := compare_sets u s.a r (modifyBase m)
    exact ⟨_, hexec, hstores, htc, htz, htn, fun g hg => (hkeeps g hg).trans (hflag g), hta.trans ha, hx, hy, hsp,
      hret⟩
  · intro r borrow signed
    have hr : memValue m s + 1 = r :=
      BitVec.eq_of_toNat_eq ((toNat_add_one _).trans (BitVec.toNat_ofNat _ 8).symm)
    obtain ⟨u, ha, hflag, hexec, hstores, hx, hy, hsp, hret⟩ :=
      modifyMem_frame (fun r => writesAP_addWithCarry (~~~r)) m (· + 1) s hr
    obtain ⟨hta, htc, htv, hnz, hkeeps⟩ := addWithCarry_sets (~~~r) (modifyBase m) ha (hflag .c)
    refine ⟨_, hexec, hstores, ?_, ?_, ?_, hnz, fun g hg => (hkeeps g hg).trans (hflag g), hx, hy, hsp, hret⟩
    · rw [hta, addBytes_not_toNat]
    · rw [htc, addBytes_not_carry_iff]
    · rw [htv, addBytes_not_overflow_iff]

/-- A shift of memory that then loads a with a bitwise operation of a and the result (R217-R219). -/
theorem shiftMem_loadA {i : Instr} {m : Addr} {s : State} {f : Byte → Shift} {op : Byte → Byte → Byte} {r : Nat}
    {carry : Bool} {g : Bool → Bool → Bool} (hmode : i.mode = m.mode)
    (hexec : exec i s = shiftMem m f (fun v => State.loadA (op s.a v)) s)
    (hr : (f (memValue m s)).result.toNat = r) (hc : (f (memValue m s)).carry = carry)
    (hop : ∀ v w k, (op v w).getLsbD k = g (v.getLsbD k) (w.getLsbD k)) :
    ∃ t, exec i s = .next t ∧ Stores (effectiveAddress m s) (BitVec.ofNat 8 r) s t ∧
      (∀ k, k < 8 → t.a.getLsbD k = g (s.a.getLsbD k) ((BitVec.ofNat 8 r).getLsbD k)) ∧ NZ t.a t ∧
      t.flag .c = carry ∧ SameFlags [.n, .z, .c] s t ∧ t.x = s.x ∧ t.y = s.y ∧ t.sp = s.sp ∧
      Retires i.length (modifyBase m) s t := by
  obtain ⟨u, -, hcarry, hflag, hnext, hstores, hx, hy, hsp, hret⟩ :=
    shiftMem_frame (fun v => writesAP_loadA (op s.a v)) m f s (ofNat_eq_of_toNat_eq hr).symm hc
  rw [hexec, Instr.length, hmode]
  refine ⟨_, hnext, hstores, fun k _ => hop _ _ k, nz_of_flags (by simp) (by simp), by simp [hcarry], fun h hh => ?_,
    hx, hy, hsp, hret⟩
  simp only [List.mem_cons, List.not_mem_nil, or_false, not_or] at hh
  simp [hh, hflag]

/-- Settles O59: each is `shiftMem_loadA`, by a shift and an operation known in arithmetic and bit by bit. -/
theorem shiftedMemoryCombinesWithA : Obligations.ShiftedMemoryCombinesWithA := by
  intro m s i r carry f v h
  obtain ⟨rfl, rfl, rfl, rfl⟩ | ⟨rfl, rfl, rfl, rfl⟩ | ⟨rfl, rfl, rfl, rfl⟩ := h
  · exact shiftMem_loadA (op := (· ||| ·)) rfl rfl (shiftLeft_toNat v) (getLsbD_seven_eq_decide v)
      fun _ _ _ => BitVec.getLsbD_or
  · exact shiftMem_loadA (op := (· &&& ·)) rfl rfl (rotateLeft_toNat (s.flag .c) v) (getLsbD_seven_eq_decide v)
      fun _ _ _ => BitVec.getLsbD_and
  · exact shiftMem_loadA (op := (· ^^^ ·)) rfl rfl (shiftRight_toNat v) (getLsbD_zero_eq_decide v)
      fun _ _ _ => BitVec.getLsbD_xor

/-- Settles O60: the sum is of a, the rotated Byte and the bit the rotate shifted out. -/
theorem rraAddsRotatedMemory : Obligations.RraAddsRotatedMemory := by
  intro m s v r sum signed
  obtain ⟨hresult, hbit⟩ := rotateRight_toNat (s.flag .c) v
  have hr : (rotateRight (s.flag .c) v).result = r := (ofNat_eq_of_toNat_eq hresult).symm
  obtain ⟨u, ha, hcarry, hflag, hexec, hstores, hx, hy, hsp, hret⟩ :=
    shiftMem_frame writesAP_addWithCarry m (rotateRight (s.flag .c)) s hr rfl
  obtain ⟨hta, htc, htv, hnz, hkeeps⟩ := addWithCarry_sets r (modifyBase m) ha hcarry
  refine ⟨_, hexec, hstores, ?_, ?_, ?_, hnz, fun g hg => (hkeeps g hg).trans (hflag g ?_), hx, hy, hsp, hret⟩
  · rw [hta, addBytes_toNat, hbit]
  · rw [htc, addBytes_carry_iff, hbit]
  · rw [htv, addBytes_overflow_iff, hbit]
  · rintro rfl
    exact hg (by decide)

end Sys2Proof.Proofs.UnofficialMemory
end
